-- ==== Sys2Proof/Word.lean ====
section
/-! DEFINITION. The word types of the block: u1 register fields, u8 bytes, u16 operands and the u32 request word
(spec/00_scope.md R6: every quantity is unsigned; bit 0 is the least significant bit). -/

namespace Sys2Proof

/-- A u1 value: a one-bit field of CFG or of a request word. -/
abbrev Bit := BitVec 1

/-- A u8 value: one byte of a byte sequence (R8). -/
abbrev Byte := BitVec 8

/-- A u16 value: an INFO value, a length argument, a payload checksum. -/
abbrev Half := BitVec 16

/-- A u32 value: the request word, the configuration register, a response's VALUE. -/
abbrev Word := BitVec 32

end Sys2Proof
end

