-- ==== Sys2Proof/Config.lean ====
section
/-! DEFINITION. The implementation parameters of spec/00_scope.md section 3. The wire constants have the value the spec
states; the OPEN ones are constants without a body, so that no proof can rest on their values (R3). -/

namespace Sys2Proof

/-- The parameters a model of the block takes as arguments (R3). The shared operations are written over any such record;
the machine's meanings use `Config.params`. `rxCap` is `none` for an unbounded receive buffer. -/
structure Params where
  protoVer    : Byte
  cid1        : Byte
  cid2Time    : Byte
  cid2Pver    : Byte
  cid2Daddr   : Byte
  cid2Manuf   : Byte
  cid2Analog0 : Byte
  cid2Analog1 : Byte
  rxCap       : Option Nat
deriving DecidableEq, Repr

/-- The constraints the spec puts on the parameters: the two analog codes differ by exactly 1 as natural numbers (R4),
and a finite RX_CAP is at least 3 (section 3, the RX_CAP row). -/
def Params.wf (p : Params) : Bool :=
  (p.cid2Analog0.toNat + 1 == p.cid2Analog1.toNat || p.cid2Analog1.toNat + 1 == p.cid2Analog0.toNat) &&
    (match p.rxCap with
      | none => true
      | some cap => decide (3 ≤ cap))

/-- The example configuration EX (R5). It makes the vectors of 95_test_vectors.md concrete and is claimed for no device. -/
def Params.ex : Params where
  protoVer    := 0x22#8
  cid1        := 0x46#8
  cid2Time    := 0x4D#8
  cid2Pver    := 0x4F#8
  cid2Daddr   := 0x50#8
  cid2Manuf   := 0x51#8
  cid2Analog0 := 0x42#8
  cid2Analog1 := 0x43#8
  rxCap       := none

namespace Config

/-- SOI_A, the start marker `CFG.SOI_SEL = 0` selects (R25, decision D10). -/
def soiA : Byte := 0x3E#8

/-- SOI_B, the start marker `CFG.SOI_SEL = 1` selects (R25, decision D10). -/
def soiB : Byte := 0x7E#8

/-- EOI, the last byte of a frame (R71). -/
def eoi : Byte := 0x0D#8

/-- INFO_LENID, the length value of every frame with INFO (section 3, conflict C1). The encoder compares it with 0xFFF,
so it is held at the 16-bit width of that comparison. -/
def infoLenId : Half := 0x0002#16

/-- ANALOG_INFO, the INFO value of both analog commands (R180). -/
def analogInfo : Half := 0x00FF#16

/-- The reset value of CFG: ADDR_RESET = 0x01 and every other field 0 (R230). -/
def cfgReset : Word := 0x00000001#32

/-- PROTO_VER: 0x22 by decision D7, and a named constant so that a model can be instantiated at another value (log 4). -/
def protoVer : Byte := 0x22#8

/-- CID1, OPEN (decision D8; log 3). -/
opaque cid1 : Byte

/-- CID2_TIME, OPEN (decision D9; log 3). -/
opaque cid2Time : Byte

/-- CID2_PVER, OPEN (decision D9; log 3). -/
opaque cid2Pver : Byte

/-- CID2_DADDR, OPEN (decision D9; log 3). -/
opaque cid2Daddr : Byte

/-- CID2_MANUF, OPEN (decision D9; log 3). -/
opaque cid2Manuf : Byte

/-- The smaller of the two adjacent analog codes, OPEN: 0x00 to 0xFE, since R4 counts 0xFF and 0x00 as not adjacent
(decision D9; log 3). -/
opaque cid2AnalogLow : Fin 255

/-- Whether CID2_ANALOG0 is the larger of the two analog codes, OPEN (R4: the source does not say; log 3). -/
opaque cid2Analog0IsLarger : Bool

/-- How far a finite RX_CAP exceeds its least value 3, or `none` for an unbounded buffer, OPEN (decision D15; log 3). -/
opaque rxCapAboveMinimum : Option Nat

/-- CID2_ANALOG0, one of the two adjacent codes (R4). -/
def cid2Analog0 : Byte := BitVec.ofNat 8 (cid2AnalogLow.val + cid2Analog0IsLarger.toNat)

/-- CID2_ANALOG1, the other of the two adjacent codes (R4). -/
def cid2Analog1 : Byte := BitVec.ofNat 8 (cid2AnalogLow.val + (!cid2Analog0IsLarger).toNat)

/-- RX_CAP: a natural number of at least 3, or unbounded (section 3, decision D15). -/
def rxCap : Option Nat := rxCapAboveMinimum.map (· + 3)

/-- The parameters of the modelled block. -/
def params : Params where
  protoVer    := protoVer
  cid1        := cid1
  cid2Time    := cid2Time
  cid2Pver    := cid2Pver
  cid2Daddr   := cid2Daddr
  cid2Manuf   := cid2Manuf
  cid2Analog0 := cid2Analog0
  cid2Analog1 := cid2Analog1
  rxCap       := rxCap

end Config

end Sys2Proof
end

