-- ==== Sys2Proof/Syntax.lean ====
section
/-! DEFINITION. The request operations of the block, one constructor per row of spec/opcode_table.json, and the request
they are carried in (spec/30_encoding.md R80, R82, R84). -/

namespace Sys2Proof

/-- One request operation with its operands (R82, R84). PCHK and RXPUSH hold their DATA; their N is its length (R87). -/
inductive Instr where
  /-- CFGW: write the configuration register (44_control.md R190). -/
  | cfgw (addr : Byte) (soiSel lenDbl chkDbl : Bit)
  /-- CFGR: read the configuration register (R191). -/
  | cfgr
  /-- ENC: encode a frame without INFO (41_encoder.md R129). -/
  | enc (cid2 : Byte)
  /-- ENCI: encode a frame with a 16-bit INFO (R130). -/
  | enci (cid2 : Byte) (info : Half)
  /-- CMD.TIME (43_commands.md R181). -/
  | cmdTime
  /-- CMD.PVER (R182). -/
  | cmdPver
  /-- CMD.DADDR (R183). -/
  | cmdDaddr
  /-- CMD.MANUF (R184). -/
  | cmdManuf
  /-- CMD.ANALOG0 (R185). -/
  | cmdAnalog0
  /-- CMD.ANALOG1 (R186). -/
  | cmdAnalog1
  /-- LCHK: compute a LENGTH checksum (40_checksum.md R104). -/
  | lchk (len : Half)
  /-- PCHK: compute a payload checksum of the request's DATA (R105). -/
  | pchk (data : List Byte)
  /-- RXPUSH: push an inbound chunk (42_receiver.md R151). -/
  | rxpush (chunk : List Byte)
  /-- RXPEEK: read the held buffer (R161). -/
  | rxpeek
deriving DecidableEq, Repr

/-- A request on the request port: one 32-bit word and a byte sequence, as one unit (R80, R87). -/
structure Request where
  req  : Word
  data : List Byte
deriving DecidableEq, Repr

/-- What the host does to the block: a request, or an assertion of the reset input (70_reset_and_hazards.md R240, R241). -/
inductive Event where
  /-- A request on the request port. -/
  | request (r : Request)
  /-- An assertion of the reset input (R230, R231). -/
  | reset
deriving DecidableEq, Repr

end Sys2Proof
end

