-- ==== Sys2Proof/Machine/State.lean ====
section
/-! DEFINITION. The state of the block (spec/10_state.md R22: exactly CFG, RXBUF and FAULT), together with the two
sequences its ports carry (spec/70_reset_and_hazards.md R240, R241): the events the host has issued and the output log. -/

namespace Sys2Proof.Machine

/-- The response of a transaction (30_encoding.md R81). `status` is the 4-bit STATUS as the host sees it; its codes are in
Machine/Flags.lean. -/
structure Response where
  status : BitVec 4
  value  : Word
  data   : List Byte
deriving DecidableEq, Repr

/-- One unit of output to the host (R240). -/
inductive Output where
  /-- An encoded frame on the TX port (41_encoder.md R128). -/
  | tx (frame : List Byte)
  /-- A delivered frame on the RXF port (42_receiver.md R156). -/
  | rxf (frame : List Byte)
  /-- The response that completes a transaction (R81). -/
  | response (r : Response)
deriving DecidableEq, Repr

/-- The whole state. `cfg`, `rxbuf` and `fault` are the block's registers; `pending` and `out` are the model's own record
of what stands on the ports (log 1, log 5). -/
structure State where
  /-- CFG, 32 bits (10_state.md R23). -/
  cfg     : Word
  /-- RXBUF, the receive buffer, its first byte at index 0 (R29, 20_memory.md R41). -/
  rxbuf   : List Byte
  /-- FAULT, the sticky capacity fault (R32). -/
  fault   : Bool
  /-- Events the host has issued and the block has not yet taken, oldest first (R241). -/
  pending : List Event
  /-- Everything the block has emitted, oldest first: frames on TX and RXF, and responses (R241, R49). -/
  out     : List Output
deriving DecidableEq, Repr

/-- The reasons a step can stop the machine: none. Every error of the block is a status code in a response
(60_exceptions.md R200), and a block with FAULT = 1 goes on answering (R241), so no constructor exists (log 10). -/
inductive Fault
deriving DecidableEq, Repr

/-- The reasons the model gives no meaning. -/
inductive Refusal where
  /-- Raised by an arm of `exec` for an instruction that has no meaning in the model. Safe: nothing is claimed of it.
  No arm raises it: every instruction has its meaning. -/
  | notModelled (mnemonic : String)
deriving DecidableEq, Repr

/-- The machine right after reset or power-on (R230): CFG = 0x00000001, RXBUF empty, FAULT = 0. Nothing is issued yet and
nothing has been emitted (log 1, log 5). -/
def State.reset : State where
  cfg     := Config.cfgReset
  rxbuf   := []
  fault   := false
  pending := []
  out     := []

end Sys2Proof.Machine
end

