-- ==== Sys2Proof/Machine/Flags.lean ====
section
/-! DEFINITION. STATUS codes (spec/60_exceptions.md R201 to R203). The block has no condition codes or flags that persist
(spec/10_state.md R33); the outcome of a transaction is this 4-bit code in its own response. -/

namespace Sys2Proof.Machine

/-- The errors of the block, `ProtocolError{kind}` of R202. -/
inductive ProtocolError where
  /-- LENGTH_OVERFLOW (R204). -/
  | lengthOverflow
  /-- EMPTY_PAYLOAD (R205). -/
  | emptyPayload
  /-- ZERO_CHECKSUM (R206). -/
  | zeroChecksum
  /-- MALFORMED (R207). -/
  | malformed
  /-- INVALID_VERSION (R208). -/
  | invalidVersion
  /-- ILLEGAL_REQUEST (R209). -/
  | illegalRequest
  /-- CAPACITY_FAULT (R210). -/
  | capacityFault
deriving DecidableEq, Repr

/-- The tagged union of R202: success, an error of the block, or one of the codes reserved for the host's transport. -/
inductive Status where
  | ok
  | protocol (e : ProtocolError)
  /-- Codes 0x8 to 0xF, which the block never produces and whose kinds the spec does not assign (R203). -/
  | transport (kind : BitVec 3)
deriving DecidableEq, Repr

/-- The code of an error (R201). -/
def ProtocolError.code : ProtocolError → BitVec 4
  | .lengthOverflow => 0x1#4
  | .emptyPayload => 0x2#4
  | .zeroChecksum => 0x3#4
  | .malformed => 0x4#4
  | .invalidVersion => 0x5#4
  | .illegalRequest => 0x6#4
  | .capacityFault => 0x7#4

/-- The 4-bit code of a status (R201, R202: STATUS[3] = 1 marks the transport class). -/
def Status.code : Status → BitVec 4
  | .ok => 0x0#4
  | .protocol e => e.code
  | .transport kind => 1#1 ++ kind

/-- The status a 4-bit code stands for (R201, R202). -/
def statusOfCode (c : BitVec 4) : Status :=
  match c.toNat with
  | 0 => .ok
  | 1 => .protocol .lengthOverflow
  | 2 => .protocol .emptyPayload
  | 3 => .protocol .zeroChecksum
  | 4 => .protocol .malformed
  | 5 => .protocol .invalidVersion
  | 6 => .protocol .illegalRequest
  | 7 => .protocol .capacityFault
  | _ => .transport (c.extractLsb' 0 3)

end Sys2Proof.Machine
end

