-- ==== Sys2Proof/WellFormed.lean ====
section
/-! DEFINITION. Which instruction terms a request can carry. Every fixed-width operand is legal at every value
(spec/30_encoding.md R84, 41_encoder.md R129, 44_control.md R190); the one check is that the DATA of PCHK and RXPUSH has a
length that REQ[15:0] can state (R84: N is 0 to 65535). -/

namespace Sys2Proof

/-- The DATA length fits the 16-bit field N (R84, R87). -/
def dataFits (data : List Byte) : Bool := decide (data.length < 65536)

/-- The instruction can be carried in a request. -/
def Instr.wellFormed : Instr → Bool
  | .cfgw _ _ _ _ => true
  | .cfgr => true
  | .enc _ => true
  | .enci _ _ => true
  | .cmdTime => true
  | .cmdPver => true
  | .cmdDaddr => true
  | .cmdManuf => true
  | .cmdAnalog0 => true
  | .cmdAnalog1 => true
  | .lchk _ => true
  | .pchk data => dataFits data
  | .rxpush chunk => dataFits chunk
  | .rxpeek => true

end Sys2Proof
end

