-- ==== Sys2Proof/Decode.lean ====
section
/-! DEFINITION. Decoding a request and encoding an instruction (spec/30_encoding.md R80 to R87). Decoding is the table scan
of R85 over the rows of R82, total on every 32-bit word and every DATA; it rejects by name. The FAULT test that R85 puts
before the scan reads state and so stands with the transaction (Machine/Ops.lean, log 8). -/

namespace Sys2Proof

/-- Why a request is no instance of an operation (R86). The block answers each with ILLEGAL_REQUEST; the names are the
model's (log 9). -/
inductive DecodeError where
  /-- OP 0x0 or 0x9 to 0xF. -/
  | reservedOp (op : BitVec 4)
  /-- OP 0x4 with REQ[27:4] = 0 and a command selector 0x6 to 0xF (43_commands.md R187). -/
  | reservedSelector (sel : BitVec 4)
  /-- A must-be-zero bit of the operation is set (R83). -/
  | mustBeZero (op : BitVec 4)
  /-- The DATA length does not match the operation (R87). -/
  | dataLength (mnemonic : String)
deriving DecidableEq, Repr

/-- One row of the table of R82: its match and mask, whether it carries REQ[15:0] bytes of DATA, and the operation its
fields stand for. -/
structure Row where
  mnemonic    : String
  matchBits   : Word
  maskBits    : Word
  carriesData : Bool
  build       : Word → List Byte → Instr

/-- The word matches the row (R85: `(REQ AND r.mask) = r.match`). -/
def Row.fits (row : Row) (req : Word) : Bool := req &&& row.maskBits == row.matchBits

/-- `r.datalen(REQ)` of R85. -/
def Row.dataLen (row : Row) (req : Word) : Nat := if row.carriesData then (req.extractLsb' 0 16).toNat else 0

/-- The configuration rows (44_control.md R190, R191). -/
def controlRows : List Row :=
  [ ⟨"CFGW", 0x10000000#32, 0xFFFFF800#32, false, fun q _ =>
      .cfgw (q.extractLsb' 0 8) (q.extractLsb' 8 1) (q.extractLsb' 9 1) (q.extractLsb' 10 1)⟩,
    ⟨"CFGR", 0x20000000#32, 0xFFFFFFFF#32, false, fun _ _ => .cfgr⟩ ]

/-- The encoder rows (41_encoder.md R129, R130). -/
def encoderRows : List Row :=
  [ ⟨"ENC", 0x30000000#32, 0xFF00FFFF#32, false, fun q _ => .enc (q.extractLsb' 16 8)⟩,
    ⟨"ENCI", 0x31000000#32, 0xFF000000#32, false, fun q _ => .enci (q.extractLsb' 16 8) (q.extractLsb' 0 16)⟩ ]

/-- The command rows (43_commands.md R180 to R186). -/
def commandRows : List Row :=
  [ ⟨"CMD.TIME", 0x40000000#32, 0xFFFFFFFF#32, false, fun _ _ => .cmdTime⟩,
    ⟨"CMD.PVER", 0x40000001#32, 0xFFFFFFFF#32, false, fun _ _ => .cmdPver⟩,
    ⟨"CMD.DADDR", 0x40000002#32, 0xFFFFFFFF#32, false, fun _ _ => .cmdDaddr⟩,
    ⟨"CMD.MANUF", 0x40000003#32, 0xFFFFFFFF#32, false, fun _ _ => .cmdManuf⟩,
    ⟨"CMD.ANALOG0", 0x40000004#32, 0xFFFFFFFF#32, false, fun _ _ => .cmdAnalog0⟩,
    ⟨"CMD.ANALOG1", 0x40000005#32, 0xFFFFFFFF#32, false, fun _ _ => .cmdAnalog1⟩ ]

/-- The checksum rows (40_checksum.md R104, R105). -/
def checksumRows : List Row :=
  [ ⟨"LCHK", 0x50000000#32, 0xFFFF0000#32, false, fun q _ => .lchk (q.extractLsb' 0 16)⟩,
    ⟨"PCHK", 0x60000000#32, 0xFFFF0000#32, true, fun _ d => .pchk d⟩ ]

/-- The receiver rows (42_receiver.md R151, R161). -/
def receiverRows : List Row :=
  [ ⟨"RXPUSH", 0x70000000#32, 0xFFFF0000#32, true, fun _ d => .rxpush d⟩,
    ⟨"RXPEEK", 0x80000000#32, 0xFFFFFFFF#32, false, fun _ _ => .rxpeek⟩ ]

/-- The table of R82, its reserved rows left out as R85 says. -/
def requestTable : List Row := controlRows ++ encoderRows ++ commandRows ++ checksumRows ++ receiverRows

/-- The name of the refusal of a word that no row matches (R86). -/
def whyIllegal (req : Word) : DecodeError :=
  let op : BitVec 4 := req.extractLsb' 28 4
  if op.toNat = 0 ∨ 9 ≤ op.toNat then .reservedOp op
  else if op.toNat = 4 ∧ (req.extractLsb' 4 24).toNat = 0 then .reservedSelector (req.extractLsb' 0 4)
  else .mustBeZero op

/-- Decoding (R85, after its FAULT test): the row that matches, then the DATA length check of R87, then the operation. -/
def decode (r : Request) : Except DecodeError Instr :=
  match requestTable.find? (fun row => row.fits r.req) with
  | none => .error (whyIllegal r.req)
  | some row =>
    if r.data.length = row.dataLen r.req then .ok (row.build r.req r.data) else .error (.dataLength row.mnemonic)

/-- A value placed with its bit 0 at bit `lo` of a 32-bit word. -/
def placeAt {w : Nat} (v : BitVec w) (lo : Nat) : Word := v.setWidth 32 <<< lo

/-- The request an instruction is issued as: the match of its row of R82 with the operand fields in place, and the DATA of
PCHK and RXPUSH with its length in REQ[15:0] (R84, R87). -/
def encode : Instr → Request
  | .cfgw addr soiSel lenDbl chkDbl =>
    ⟨0x10000000#32 ||| placeAt chkDbl 10 ||| placeAt lenDbl 9 ||| placeAt soiSel 8 ||| placeAt addr 0, []⟩
  | .cfgr => ⟨0x20000000#32, []⟩
  | .enc cid2 => ⟨0x30000000#32 ||| placeAt cid2 16, []⟩
  | .enci cid2 info => ⟨0x31000000#32 ||| placeAt cid2 16 ||| placeAt info 0, []⟩
  | .cmdTime => ⟨0x40000000#32, []⟩
  | .cmdPver => ⟨0x40000001#32, []⟩
  | .cmdDaddr => ⟨0x40000002#32, []⟩
  | .cmdManuf => ⟨0x40000003#32, []⟩
  | .cmdAnalog0 => ⟨0x40000004#32, []⟩
  | .cmdAnalog1 => ⟨0x40000005#32, []⟩
  | .lchk len => ⟨0x50000000#32 ||| placeAt len 0, []⟩
  | .pchk data => ⟨0x60000000#32 ||| placeAt (BitVec.ofNat 16 data.length) 0, data⟩
  | .rxpush chunk => ⟨0x70000000#32 ||| placeAt (BitVec.ofNat 16 chunk.length) 0, chunk⟩
  | .rxpeek => ⟨0x80000000#32, []⟩

/-- How many DATA bytes the bits of an instruction above its request word stand for: those that `nbits` names, and at
least the N bytes a PCHK or RXPUSH word calls for (log 7). -/
def tableDataLen (nbits : Nat) (req : Word) : Nat :=
  max (nbits / 8 - 4)
    (match requestTable.find? (fun row => row.fits req) with
      | none => 0
      | some row => row.dataLen req)

/-- Byte j of the DATA is bits 8j+7..8j of what stands above the request word. -/
def dataBytes : Nat → Nat → List Byte
  | 0, _ => []
  | n + 1, v => BitVec.ofNat 8 v :: dataBytes n (v / 256)

/-- The request whose bits are `w`, numbered as opcode_table.json numbers them: REQ is bits 31..0, the DATA bytes lie above
it, and every bit from `nbits` up is 0 (log 7). -/
def tableRequest (nbits w : Nat) : Request :=
  let bits := w % 2 ^ nbits
  let req : Word := BitVec.ofNat 32 bits
  ⟨req, dataBytes (tableDataLen nbits req) (bits / 2 ^ 32)⟩

/-- The instruction the decoder reads from an instruction whose bits are `w`. -/
def decodeTableWord (nbits w : Nat) : Option Instr :=
  match decode (tableRequest nbits w) with
  | .ok i => some i
  | .error _ => none

/-- The pseudo-operations of R90. -/
inductive Pseudo where
  /-- `CMD.ANALOG <f>` with f the source's boolean fixed-dataset selector. -/
  | analog (fixedDataset : Bit)
  /-- `ENC <cid2>, <info>`. -/
  | encInfo (cid2 : Byte) (info : Half)
  /-- `RESET`: an assertion of the reset input, no request. -/
  | reset
deriving DecidableEq, Repr

/-- What a pseudo-operation stands for (R90). -/
def Pseudo.expand : Pseudo → Event
  | .analog f => .request (encode (if f = 0#1 then .cmdAnalog0 else .cmdAnalog1))
  | .encInfo cid2 info => .request (encode (.enci cid2 info))
  | .reset => .reset

end Sys2Proof
end

