-- ==== Sys2Proof/Machine/Operands.lean ====
section
/-! DEFINITION. The forms operands take: the fields of CFG (spec/10_state.md R23 to R28) and the hex text that a numeric
field of a frame is rendered as (spec/30_encoding.md R60 to R63, spec/20_memory.md R42, R43). -/

namespace Sys2Proof.Machine

/-- CFG.ADDR, bits 7..0 (R24). -/
def cfgAddr (cfg : Word) : Byte := cfg.extractLsb' 0 8

/-- CFG.SOI_SEL, bit 8 (R25). -/
def cfgSoiSel (cfg : Word) : Bit := cfg.extractLsb' 8 1

/-- CFG.LEN_DBL, bit 9 (R26). -/
def cfgLenDbl (cfg : Word) : Bit := cfg.extractLsb' 9 1

/-- CFG.CHK_DBL, bit 10 (R27). -/
def cfgChkDbl (cfg : Word) : Bit := cfg.extractLsb' 10 1

/-- The reserved bits 31..11 as the register holds them (R28). -/
def cfgReserved (cfg : Word) : BitVec 21 := cfg.extractLsb' 11 21

/-- The register with its four fields written and its reserved bits as they stood (44_control.md R190; log 6). -/
def cfgWithFields (cfg : Word) (addr : Byte) (soiSel lenDbl chkDbl : Bit) : Word :=
  placeAt (cfgReserved cfg) 11 ||| placeAt chkDbl 10 ||| placeAt lenDbl 9 ||| placeAt soiSel 8 ||| placeAt addr 0

/-- What reading the register gives: the four fields, the reserved bits as zero (R28, 44_control.md R191). -/
def cfgRead (cfg : Word) : Word :=
  placeAt (cfgChkDbl cfg) 10 ||| placeAt (cfgLenDbl cfg) 9 ||| placeAt (cfgSoiSel cfg) 8 ||| placeAt (cfgAddr cfg) 0

/-- `SOI_BYTE` (R25). -/
def soiByte (soiSel : Bit) : Byte := if soiSel = 0#1 then Config.soiA else Config.soiB

/-- `HEXCHAR(n)`, the ASCII code of the uppercase hex digit (30_encoding.md R60). -/
def hexChar (n : BitVec 4) : Byte :=
  if n.toNat ≤ 9 then BitVec.ofNat 8 (0x30 + n.toNat) else BitVec.ofNat 8 (0x41 + (n.toNat - 10))

/-- `HEX2(b)`, high nibble first (R61). -/
def hex2 (b : Byte) : List Byte := [hexChar (b.extractLsb' 4 4), hexChar (b.extractLsb' 0 4)]

/-- `HEXN(v, k)`, the k lowest nibbles of v, most significant first (R61). -/
def hexN {w : Nat} (v : BitVec w) : Nat → List Byte
  | 0 => []
  | k + 1 => hexChar (v.extractLsb' (4 * k) 4) :: hexN v k

/-- `DBL(s)`: each byte becomes the two hex characters of its own code (R62, 20_memory.md R43). -/
def dbl : List Byte → List Byte
  | [] => []
  | c :: cs => hex2 c ++ dbl cs

/-- `MODE(s, d)` (R63). -/
def renderMode (s : List Byte) (d : Bit) : List Byte := if d = 1#1 then dbl s else s

/-- The bytes that are hex characters, 0x30 to 0x39 and 0x41 to 0x46 (R60). -/
def isHexChar (b : Byte) : Bool := (0x30 ≤ b.toNat && b.toNat ≤ 0x39) || (0x41 ≤ b.toNat && b.toNat ≤ 0x46)

end Sys2Proof.Machine
end

