-- ==== Sys2Proof/Machine/Ops.lean ====
section
/-! DEFINITION. The named operations over the state: the ports, the registers, the receive buffer, the response, reset, and
the ONE shared way an error ends a transaction (spec/00_scope.md R9, spec/60_exceptions.md R200, R212). The block has no
trap, so nothing is saved at an error and there is no return from one (R212, R213). -/

namespace Sys2Proof.Machine

/-- Append one unit to the output log (20_memory.md R49: outputs appear in the order they are made). -/
def State.emit (s : State) (o : Output) : State := { s with out := s.out ++ [o] }

/-- Replace CFG. -/
def State.setCfg (s : State) (v : Word) : State := { s with cfg := v }

/-- `RXBUF <- v` (00_scope.md R9). -/
def State.setRxbuf (s : State) (v : List Byte) : State := { s with rxbuf := v }

/-- `FAULT <- v`. -/
def State.setFault (s : State) (v : Bool) : State := { s with fault := v }

/-- Replace the queue of events the host has issued. -/
def State.setPending (s : State) (v : List Event) : State := { s with pending := v }

/-- `emit TX(frame)`: the frame goes out as one unit (00_scope.md R9, 41_encoder.md R128). -/
def emitTx (frame : List Byte) (s : State) : State := s.emit (.tx frame)

/-- `emit RXF(frame)`: the frame goes out as one unit (R9, 42_receiver.md R156). -/
def emitRxf (frame : List Byte) (s : State) : State := s.emit (.rxf frame)

/-- `respond(status, value, data)`: complete the transaction (R9, 30_encoding.md R81). -/
def respond (status : Status) (value : Word) (data : List Byte) (s : State) : State :=
  s.emit (.response ⟨status.code, value, data⟩)

/-- `raise e`: end the transaction with the error's status, VALUE 0 and no data. The state is what the rule had written
before the raise; no control is transferred and nothing is saved (00_scope.md R9, 60_exceptions.md R200, R212). -/
def raise (e : ProtocolError) (s : State) : State := respond (.protocol e) 0#32 [] s

/-- A transaction on state `s` whose result with FAULT = 0 is `t`. While FAULT = 1 every transaction, whatever it is,
gets CAPACITY_FAULT and writes nothing (10_state.md R32, 60_exceptions.md R211; log 8). -/
def unlessFaulted (s t : State) : State := if s.fault then raise .capacityFault s else t

/-- The answer to a request that is no instance of an operation: ILLEGAL_REQUEST, its DATA discarded (30_encoding.md R86,
60_exceptions.md R209). -/
def refuseRequest (s : State) : State := unlessFaulted s (raise .illegalRequest s)

/-- RXPUSH's append: the chunk goes at the end, in order (20_memory.md R41). -/
def appendRx (chunk : List Byte) (s : State) : State := s.setRxbuf (s.rxbuf ++ chunk)

/-- Whether a buffer of `n` bytes is within RX_CAP (10_state.md R30); an unbounded buffer holds any number. -/
def fitsCapacity (p : Params) (n : Nat) : Bool :=
  match p.rxCap with
  | none => true
  | some cap => decide (n ≤ cap)

/-- The capacity fault: the chunk is discarded, RXBUF is unchanged, FAULT becomes 1 and the response is CAPACITY_FAULT
(42_receiver.md R152, 60_exceptions.md R210). -/
def capacityOverflow (s : State) : State := raise .capacityFault (s.setFault true)

/-- Asserting the reset input: CFG, RXBUF and FAULT take their reset values; held bytes are not delivered, nothing is
emitted and there is no response (70_reset_and_hazards.md R230, R231). What the host has issued and has been sent is the
host's and stands (log 5, log 11). -/
def resetBlock (s : State) : State := { s with cfg := Config.cfgReset, rxbuf := [], fault := false }

/-- Put an event where the block takes its next one from (log 7). -/
def issueNext (e : Event) (s : State) : State := s.setPending (e :: s.pending)

/-- The TX frames of an output log, in issue order (R241). -/
def txFrames : List Output → List (List Byte)
  | [] => []
  | .tx f :: os => f :: txFrames os
  | .rxf _ :: os => txFrames os
  | .response _ :: os => txFrames os

/-- The RXF frames of an output log, in issue order (R241). -/
def rxfFrames : List Output → List (List Byte)
  | [] => []
  | .tx _ :: os => rxfFrames os
  | .rxf f :: os => f :: rxfFrames os
  | .response _ :: os => rxfFrames os

/-- The responses of an output log, in issue order (R241). -/
def responses : List Output → List Response
  | [] => []
  | .tx _ :: os => responses os
  | .rxf _ :: os => responses os
  | .response r :: os => r :: responses os

end Sys2Proof.Machine
end

