-- ==== Sys2Proof/Machine/Checksum.lean ====
section
/-! DEFINITION. The checksum generators and their two transactions, LCHK and PCHK (spec/40_checksum.md). -/

namespace Sys2Proof.Machine

/-- `LCHKF(L)`, the 4-bit LENGTH checksum of a 12-bit length (R100): the complement plus one, mod 16, of the nibble sum
mod 16. Its domain is exactly the lengths it is defined on. -/
def lchkf (l : BitVec 12) : BitVec 4 :=
  let s := (l.extractLsb' 8 4).toNat + (l.extractLsb' 4 4).toNat + (l.extractLsb' 0 4).toNat
  let r : BitVec 4 := BitVec.ofNat 4 s
  ~~~r + 1#4

/-- The LENGTH checksum of a 16-bit length argument: LENGTH_OVERFLOW above 0xFFF, where no value is computed (R104,
41_encoder.md R124, decision D16). -/
def lengthChecksum (len : Half) : Except ProtocolError (BitVec 4) :=
  if 0xFFF < len.toNat then .error .lengthOverflow else .ok (lchkf (len.extractLsb' 0 12))

/-- `sum(s)`, the exact sum of all bytes (00_scope.md R8). -/
def sumBytes : List Byte → Nat
  | [] => 0
  | b :: bs => b.toNat + sumBytes bs

/-- `PCHKF(B)`, the 16-bit payload checksum: the complement plus one of the sum mod 65536, or ZERO_CHECKSUM when that sum
is zero (R102, decision D13). -/
def pchkf (b : List Byte) : Except ProtocolError Half :=
  let s : Half := BitVec.ofNat 16 (sumBytes b)
  if s = 0#16 then .error .zeroChecksum else .ok (~~~s + 1#16)

/-- LCHK (R104). -/
def execLchk (len : Half) (s : State) : Host.Outcome State Fault Refusal :=
  .next (unlessFaulted s
    (match lengthChecksum len with
      | .error e => raise e s
      | .ok c => respond .ok (c.setWidth 32) [] s))

/-- PCHK (R105). The DATA is not appended to RXBUF. -/
def execPchk (data : List Byte) (s : State) : Host.Outcome State Fault Refusal :=
  .next (unlessFaulted s
    (match pchkf data with
      | .error e => raise e s
      | .ok c => respond .ok (c.setWidth 32) [] s))

end Sys2Proof.Machine
end

