-- ==== Sys2Proof/Machine/Encoder.lean ====
section
/-! DEFINITION. The frame encoder and its two transactions, ENC and ENCI (spec/41_encoder.md; field layout in
spec/30_encoding.md R65 to R72). -/

namespace Sys2Proof.Machine

/-- The header VER ADDR CID1 CID2, never doubled (R123, 30_encoding.md R67). -/
def headerField (p : Params) (cfg : Word) (cid2 : Byte) : List Byte :=
  hex2 p.protoVer ++ hex2 (cfgAddr cfg) ++ hex2 p.cid1 ++ hex2 cid2

/-- The LENGTH field of a length value: LCHKSUM, then the three LENID nibbles, under MODE; LENGTH_OVERFLOW above 0xFFF
(R124, 30_encoding.md R68). -/
def lengthText (lenId : Half) (lenDbl : Bit) : Except ProtocolError (List Byte) :=
  match lengthChecksum lenId with
  | .error e => .error e
  | .ok c =>
    .ok (renderMode
      [hexChar c, hexChar (lenId.extractLsb' 8 4), hexChar (lenId.extractLsb' 4 4), hexChar (lenId.extractLsb' 0 4)]
      lenDbl)

/-- The literal "0000" (R124: the LENGTH field of a frame without INFO, in either mode). -/
def lengthAbsent : List Byte := [0x30#8, 0x30#8, 0x30#8, 0x30#8]

/-- Step 3, the LENGTH field (R124). -/
def lengthField (info : Option Half) (lenDbl : Bit) : Except ProtocolError (List Byte) :=
  match info with
  | none => .ok lengthAbsent
  | some _ => lengthText Config.infoLenId lenDbl

/-- Step 4, the INFO field; its doubling follows LEN_DBL (R125, 30_encoding.md R69, conflict C8). -/
def infoField (info : Option Half) (lenDbl : Bit) : List Byte :=
  match info with
  | none => []
  | some i => renderMode (hexN i 4) lenDbl

/-- The CHKSUM field of a checksum, high byte first (30_encoding.md R70, conflict C2). -/
def checksumText (c : Half) (chkDbl : Bit) : List Byte :=
  renderMode (hex2 (c.extractLsb' 8 8) ++ hex2 (c.extractLsb' 0 8)) chkDbl

/-- Step 5, the CHKSUM field of a body: EMPTY_PAYLOAD, then ZERO_CHECKSUM, then the text (R126). -/
def checksumField (body : List Byte) (chkDbl : Bit) : Except ProtocolError (List Byte) :=
  if body.length = 0 then .error .emptyPayload
  else
    match pchkf body with
    | .error e => .error e
    | .ok c => .ok (checksumText c chkDbl)

/-- `ENCODE(cid2, info)` (R121): steps 1 to 6 in order; a failure of step 3 or 5 aborts the whole function. The body is
everything steps 1 to 4 appended but for the first byte (R126). -/
def encodeFrame (p : Params) (cfg : Word) (cid2 : Byte) (info : Option Half) : Except ProtocolError (List Byte) :=
  match lengthField info (cfgLenDbl cfg) with
  | .error e => .error e
  | .ok len =>
    let upToInfo := [soiByte (cfgSoiSel cfg)] ++ headerField p cfg cid2 ++ len ++ infoField info (cfgLenDbl cfg)
    match checksumField (upToInfo.drop 1) (cfgChkDbl cfg) with
    | .error e => .error e
    | .ok chk => .ok (upToInfo ++ chk ++ [Config.eoi])

/-- How a transaction completes an ENCODE: on failure its status and nothing on TX; on success the frame on TX as one
unit, then OK with the frame's length (R128). -/
def completeEncode (r : Except ProtocolError (List Byte)) (s : State) : State :=
  match r with
  | .error e => raise e s
  | .ok f => respond .ok (BitVec.ofNat 32 f.length) [] (emitTx f s)

/-- The encode transaction of ENC, ENCI and every CMD row (R129, R130, 43_commands.md R180). The configuration is the one
CFG holds when the transaction starts (R120). -/
def encodeTransaction (p : Params) (cid2 : Byte) (info : Option Half) (s : State) : State :=
  unlessFaulted s (completeEncode (encodeFrame p s.cfg cid2 info) s)

/-- ENC (R129). -/
def execEnc (cid2 : Byte) (s : State) : Host.Outcome State Fault Refusal :=
  .next (encodeTransaction Config.params cid2 none s)

/-- ENCI (R130). -/
def execEnci (cid2 : Byte) (info : Half) (s : State) : Host.Outcome State Fault Refusal :=
  .next (encodeTransaction Config.params cid2 (some info) s)

end Sys2Proof.Machine
end

