-- ==== Sys2Proof/Machine/Commands.lean ====
section
/-! DEFINITION. The fixed command descriptors (spec/43_commands.md): each CMD transaction is an ENCODE with the pair of its
row of the table of R180. -/

namespace Sys2Proof.Machine

/-- CMD.TIME (R181). -/
def execCmdTime (s : State) : Host.Outcome State Fault Refusal :=
  .next (encodeTransaction Config.params Config.params.cid2Time none s)

/-- CMD.PVER (R182). -/
def execCmdPver (s : State) : Host.Outcome State Fault Refusal :=
  .next (encodeTransaction Config.params Config.params.cid2Pver none s)

/-- CMD.DADDR (R183). -/
def execCmdDaddr (s : State) : Host.Outcome State Fault Refusal :=
  .next (encodeTransaction Config.params Config.params.cid2Daddr none s)

/-- CMD.MANUF (R184). -/
def execCmdManuf (s : State) : Host.Outcome State Fault Refusal :=
  .next (encodeTransaction Config.params Config.params.cid2Manuf none s)

/-- CMD.ANALOG0, fixed-dataset = false (R185). -/
def execCmdAnalog0 (s : State) : Host.Outcome State Fault Refusal :=
  .next (encodeTransaction Config.params Config.params.cid2Analog0 (some Config.analogInfo) s)

/-- CMD.ANALOG1, fixed-dataset = true (R186). -/
def execCmdAnalog1 (s : State) : Host.Outcome State Fault Refusal :=
  .next (encodeTransaction Config.params Config.params.cid2Analog1 (some Config.analogInfo) s)

end Sys2Proof.Machine
end

