-- ==== Sys2Proof/Machine/Control.lean ====
section
/-! DEFINITION. Configuration access, CFGW and CFGR (spec/44_control.md). No privilege is needed for either
(spec/60_exceptions.md R214). -/

namespace Sys2Proof.Machine

/-- CFGW (R190): all four fields at once, then OK with VALUE 0. -/
def execCfgw (addr : Byte) (soiSel lenDbl chkDbl : Bit) (s : State) : Host.Outcome State Fault Refusal :=
  .next (unlessFaulted s (respond .ok 0#32 [] (s.setCfg (cfgWithFields s.cfg addr soiSel lenDbl chkDbl))))

/-- CFGR (R191). -/
def execCfgr (s : State) : Host.Outcome State Fault Refusal :=
  .next (unlessFaulted s (respond .ok (cfgRead s.cfg) [] s))

end Sys2Proof.Machine
end

