-- ==== Sys2Proof/Machine/Receiver.lean ====
section
/-! DEFINITION. The frame receiver and its two transactions, RXPUSH and RXPEEK (spec/42_receiver.md). The receiver reads no
field of CFG (R157) and makes no check beyond the four of R150 (R155). -/

namespace Sys2Proof.Machine

/-- What VALIDATE returns (R150). -/
inductive Verdict where
  | accept
  | reject (e : ProtocolError)
deriving DecidableEq, Repr

/-- The byte is one of the two SOI values, whatever CFG.SOI_SEL is (R157). -/
def isSoi (b : Byte) : Bool := b == Config.soiA || b == Config.soiB

/-- `VALIDATE(buf)` (R150): the four checks in order, the first that fails deciding. Byte 1 is compared raw with PROTO_VER
(conflict C3). -/
def validate (protoVer : Byte) (buf : List Byte) : Verdict :=
  if buf.length < 3 then .reject .malformed
  else if ¬ buf[0]?.any isSoi then .reject .malformed
  else if buf[1]? ≠ some protoVer then .reject .invalidVersion
  else if buf.getLast? ≠ some Config.eoi then .reject .malformed
  else .accept

/-- Delivery (R156): the whole of RXBUF on RXF, then RXBUF empty, then OK with VALUE 1. -/
def deliver (s : State) : State := respond .ok 1#32 [] ((emitRxf s.rxbuf s).setRxbuf [])

/-- RXPUSH once the chunk is appended: IDLE on an empty buffer (R153), else the verdict on the whole buffer; a rejected
buffer is kept (R154). -/
def judgeBuffer (p : Params) (s : State) : State :=
  if s.rxbuf.length = 0 then respond .ok 0#32 [] s
  else
    match validate p.protoVer s.rxbuf with
    | .reject e => raise e s
    | .accept => deliver s

/-- RXPUSH (R151): the capacity check (R152), the append (20_memory.md R41), then the judgement. -/
def pushChunk (p : Params) (chunk : List Byte) (s : State) : State :=
  unlessFaulted s
    (if fitsCapacity p (s.rxbuf.length + chunk.length) then judgeBuffer p (appendRx chunk s) else capacityOverflow s)

/-- RXPEEK (R161): the length modulo 2^32 and a copy of the buffer. -/
def peekBuffer (s : State) : State := unlessFaulted s (respond .ok (BitVec.ofNat 32 s.rxbuf.length) s.rxbuf s)

/-- RXPUSH (R151). -/
def execRxpush (chunk : List Byte) (s : State) : Host.Outcome State Fault Refusal :=
  .next (pushChunk Config.params chunk s)

/-- RXPEEK (R161). -/
def execRxpeek (s : State) : Host.Outcome State Fault Refusal := .next (peekBuffer s)

end Sys2Proof.Machine
end

