-- ==== Sys2Proof/Machine/Dispatch.lean ====
section
/-! DEFINITION. One arm per instruction, each a direct call of its meaning. -/

namespace Sys2Proof.Machine

def exec (i : Instr) (s : State) : Host.Outcome State Fault Refusal :=
  match i with
  | .cfgw addr soiSel lenDbl chkDbl => Sys2Proof.Machine.execCfgw addr soiSel lenDbl chkDbl s
  | .cfgr => Sys2Proof.Machine.execCfgr s
  | .enc cid2 => Sys2Proof.Machine.execEnc cid2 s
  | .enci cid2 info => Sys2Proof.Machine.execEnci cid2 info s
  | .cmdTime => Sys2Proof.Machine.execCmdTime s
  | .cmdPver => Sys2Proof.Machine.execCmdPver s
  | .cmdDaddr => Sys2Proof.Machine.execCmdDaddr s
  | .cmdManuf => Sys2Proof.Machine.execCmdManuf s
  | .cmdAnalog0 => Sys2Proof.Machine.execCmdAnalog0 s
  | .cmdAnalog1 => Sys2Proof.Machine.execCmdAnalog1 s
  | .lchk len => Sys2Proof.Machine.execLchk len s
  | .pchk data => Sys2Proof.Machine.execPchk data s
  | .rxpush chunk => Sys2Proof.Machine.execRxpush chunk s
  | .rxpeek => Sys2Proof.Machine.execRxpeek s

end Sys2Proof.Machine
end

