-- ==== Sys2Proof/Machine/Transaction.lean ====
section
/-! DEFINITION. How the block takes its next event and answers a request (spec/30_encoding.md R85, R86;
spec/70_reset_and_hazards.md R231, R241). -/

namespace Sys2Proof.Machine

/-- Answer a request: the operation it decodes to, or ILLEGAL_REQUEST; with FAULT = 1 both are CAPACITY_FAULT (R85; log 8). -/
def answerRequest (r : Request) (s : State) : Host.Outcome State Fault Refusal :=
  match decode r with
  | .ok i => exec i s
  | .error _ => .next (refuseRequest s)

/-- Take the oldest event the host has issued. With none the block waits, unchanged (70_reset_and_hazards.md R232; log 1). -/
def takeEvent (s : State) : Host.Outcome State Fault Refusal :=
  match s.pending with
  | [] => .next s
  | .reset :: es => .next (resetBlock (s.setPending es))
  | .request r :: es => answerRequest r (s.setPending es)

end Sys2Proof.Machine
end

