-- ==== Sys2Proof/Machine/Step.lean ====
section
/-! DEFINITION. One step of the machine: one event, a whole transaction or a reset (spec/00_scope.md R1, R2). -/

namespace Sys2Proof.Machine

/-- One step (R2: a transaction is a single step of the model). -/
def step (s : State) : Host.Outcome State Fault Refusal := takeEvent s

/-- `s` with the instruction whose bits are `w` issued as the next request (log 7). -/
def State.withFetchWord (s : State) (nbits w : Nat) : State := issueNext (.request (tableRequest nbits w)) s

end Sys2Proof.Machine
end

