-- ==== Sys2Proof/Machine/Assembler.lean ====
section
/-! DEFINITION. The written form of requests and its pseudo-operations (spec/30_encoding.md R89, R90), as a total function
from one line of text to the event it stands for. No part of the machine uses it; details of the text that R89 leaves open
are in log 13. -/

namespace Sys2Proof.Machine

/-- The digit an uppercase hex character stands for. -/
def hexDigitOf (c : Char) : Option Nat :=
  if 0x30 ≤ c.toNat ∧ c.toNat ≤ 0x39 then some (c.toNat - 0x30)
  else if 0x41 ≤ c.toNat ∧ c.toNat ≤ 0x46 then some (c.toNat - 0x41 + 10)
  else none

/-- The value of a run of hex digits after the value `acc`. -/
def hexValueFrom (acc : Nat) : List Char → Option Nat
  | [] => some acc
  | c :: cs =>
    match hexDigitOf c with
    | none => none
    | some d => hexValueFrom (16 * acc + d) cs

/-- A number as R89 writes it, hex with `0x`, that fits `w` bits. -/
def parseNumber (w : Nat) : List Char → Option (BitVec w)
  | '0' :: 'x' :: d :: ds =>
    match hexValueFrom 0 (d :: ds) with
    | none => none
    | some v => if v < 2 ^ w then some (BitVec.ofNat w v) else none
  | _ => none

/-- A one-bit operand: `0` or `1`, as the examples of 44_control.md R190 write it, or the same number with `0x`. -/
def parseBit : List Char → Option Bit
  | ['0'] => some 0#1
  | ['1'] => some 1#1
  | text => parseNumber 1 text

/-- The pieces of a text between occurrences of a separator. -/
def splitAtChar (sep : Char) : List Char → List (List Char)
  | [] => [[]]
  | c :: cs =>
    if c = sep then [] :: splitAtChar sep cs
    else
      match splitAtChar sep cs with
      | [] => [[c]]
      | piece :: pieces => (c :: piece) :: pieces

/-- A text without its leading spaces. -/
def dropSpaces : List Char → List Char
  | [] => []
  | c :: cs => if c = ' ' then dropSpaces cs else c :: cs

/-- A two-digit hex byte inside brackets. -/
def parseByte : List Char → Option Byte
  | [h, l] =>
    match hexValueFrom 0 [h, l] with
    | none => none
    | some v => some (BitVec.ofNat 8 v)
  | _ => none

/-- Every piece as a byte, or none. -/
def parseBytePieces : List (List Char) → Option (List Byte)
  | [] => some []
  | p :: ps =>
    match parseByte p, parseBytePieces ps with
    | some b, some bs => some (b :: bs)
    | _, _ => none

/-- The ASCII codes of a quoted string's characters (00_scope.md R8). -/
def asciiBytes : List Char → Option (List Byte)
  | [] => some []
  | c :: cs =>
    match asciiBytes cs with
    | none => none
    | some bs => if c.toNat < 128 then some (BitVec.ofNat 8 c.toNat :: bs) else none

/-- `<bytes>` of R89: a bracketed list of hex bytes or a quoted ASCII string. -/
def parseBytes : List Char → Option (List Byte)
  | '[' :: rest =>
    match rest.reverse with
    | ']' :: inner =>
      match inner with
      | [] => some []
      | _ :: _ => parseBytePieces (splitAtChar ' ' inner.reverse)
    | _ => none
  | '"' :: rest =>
    match rest.reverse with
    | '"' :: inner => asciiBytes inner.reverse
    | _ => none
  | _ => none

/-- The mnemonics that take no operand. -/
def plainMnemonics : List (List Char × Instr) :=
  [ ("CFGR".toList, .cfgr), ("CMD.TIME".toList, .cmdTime), ("CMD.PVER".toList, .cmdPver), ("CMD.DADDR".toList, .cmdDaddr),
    ("CMD.MANUF".toList, .cmdManuf), ("CMD.ANALOG0".toList, .cmdAnalog0), ("CMD.ANALOG1".toList, .cmdAnalog1),
    ("RXPEEK".toList, .rxpeek) ]

/-- CFGW with its four operands (R89). -/
def assembleCfgw : List (List Char) → Option Event
  | [a, s, l, c] =>
    match parseNumber 8 a, parseBit s, parseBit l, parseBit c with
    | some addr, some soiSel, some lenDbl, some chkDbl => some (.request (encode (.cfgw addr soiSel lenDbl chkDbl)))
    | _, _, _, _ => none
  | _ => none

/-- ENC with one operand, or the pseudo-operation with two that stands for ENCI (R89, R90). -/
def assembleEnc : List (List Char) → Option Event
  | [c] => (parseNumber 8 c).map fun cid2 => .request (encode (.enc cid2))
  | [c, i] =>
    match parseNumber 8 c, parseNumber 16 i with
    | some cid2, some info => some (Pseudo.expand (.encInfo cid2 info))
    | _, _ => none
  | _ => none

/-- ENCI with its two operands (R89). -/
def assembleEnci : List (List Char) → Option Event
  | [c, i] =>
    match parseNumber 8 c, parseNumber 16 i with
    | some cid2, some info => some (.request (encode (.enci cid2 info)))
    | _, _ => none
  | _ => none

/-- An instruction that carries DATA: N is the length of the bytes, which must fit REQ[15:0] (R89, R84). -/
def assembleData (build : List Byte → Instr) (text : List Char) : Option Event :=
  match parseBytes text with
  | none => none
  | some bs => if (build bs).wellFormed then some (.request (encode (build bs))) else none

/-- One line of text as the event it stands for (R89, R90; `.word` as 95_test_vectors.md P4 writes a raw request word). -/
def assemble (line : List Char) : Option Event :=
  let mnemonic := line.takeWhile (· ≠ ' ')
  let operandText := dropSpaces (line.dropWhile (· ≠ ' '))
  let operands := (splitAtChar ',' operandText).map dropSpaces
  if operandText = [] then
    if mnemonic = "RESET".toList then some (Pseudo.expand .reset)
    else (plainMnemonics.find? (fun e => e.1 = mnemonic)).map fun e => .request (encode e.2)
  else if mnemonic = "CFGW".toList then assembleCfgw operands
  else if mnemonic = "ENC".toList then assembleEnc operands
  else if mnemonic = "ENCI".toList then assembleEnci operands
  else if mnemonic = "CMD.ANALOG".toList then (parseBit operandText).map fun f => Pseudo.expand (.analog f)
  else if mnemonic = "LCHK".toList then (parseNumber 16 operandText).map fun len => .request (encode (.lchk len))
  else if mnemonic = "PCHK".toList then assembleData .pchk operandText
  else if mnemonic = "RXPUSH".toList then assembleData .rxpush operandText
  else if mnemonic = ".word".toList then (parseNumber 32 operandText).map fun w => .request ⟨w, []⟩
  else none

end Sys2Proof.Machine
end

