-- ==== Sys2Proof/Safety.lean ====
section
/-! DEFINITION. What counts as a safe state and as legal output, in the terms the statements use. -/

namespace Sys2Proof.Machine

/-- CFG[31:11] hold zero (spec/10_state.md R28). -/
def State.ReservedZero (s : State) : Prop := cfgReserved s.cfg = 0#21

/-- RXBUF is within RX_CAP (R30). -/
def State.WithinCapacity (s : State) : Prop := fitsCapacity Config.params s.rxbuf.length = true

/-- The receiver rests in Accumulating: RXBUF is never a buffer that VALIDATE accepts (R31: Validate, Delivered and
Rejected are never visible between transactions). -/
def State.Accumulating (s : State) : Prop := validate Config.params.protoVer s.rxbuf ≠ .accept

/-- What the block's own rules promise of every frame on TX: a SOI value, hex text, EOI, and one of the five lengths
(spec/30_encoding.md R73, R88). -/
def LegalTxFrame (f : List Byte) : Prop :=
  ∃ soi body, f = [soi] ++ body ++ [Config.eoi] ∧ isSoi soi = true ∧ (∀ b ∈ body, isHexChar b = true) ∧
    f.length ∈ [18, 22, 26, 30, 34]

/-- What R160 promises of every frame on RXF under a protocol version (spec/42_receiver.md R160). -/
def LegalRxfFrame (protoVer : Byte) (f : List Byte) : Prop :=
  3 ≤ f.length ∧ f[0]?.any isSoi = true ∧ f[1]? = some protoVer ∧ f.getLast? = some Config.eoi

/-- What the rules promise of every response: STATUS is no transport code (spec/60_exceptions.md R203), and VALUE is 0 and
DATA empty on every error (R200, spec/30_encoding.md R81). -/
def LegalResponse (r : Response) : Prop :=
  r.status.toNat < 8 ∧ (r.status ≠ 0#4 → r.value = 0#32 ∧ r.data = [])

/-- A legal unit of output. -/
def LegalOutput : Output → Prop
  | .tx f => LegalTxFrame f
  | .rxf f => LegalRxfFrame Config.params.protoVer f
  | .response r => LegalResponse r

/-- The machine invariant: the reserved bits of CFG read as zero from the register itself, RXBUF is within capacity and is no
deliverable frame, and everything emitted so far is legal. -/
structure State.Inv (s : State) : Prop where
  reservedZero : s.ReservedZero
  withinCapacity : s.WithinCapacity
  accumulating : s.Accumulating
  legalOut : ∀ o ∈ s.out, LegalOutput o

/-- A buffer that no later RXPUSH can complete: byte 0 is no SOI value, or byte 0 is one and byte 1 is not PROTO_VER
(spec/42_receiver.md R158 (a), (b)). -/
def Stuck (protoVer : Byte) (buf : List Byte) : Prop :=
  (∃ b rest, buf = b :: rest ∧ isSoi b = false) ∨
    (∃ b v rest, buf = b :: v :: rest ∧ isSoi b = true ∧ v ≠ protoVer)

/-- The reserved and illegal requests, each must-be-zero range and the DATA length written out from the layouts
(spec/30_encoding.md R82, R83, R86, R87). -/
def IllegalRequest (r : Request) : Prop :=
  let op := (r.req.extractLsb' 28 4).toNat
  op = 0 ∨ 9 ≤ op ∨
    (op = 1 ∧ r.req.extractLsb' 11 17 ≠ 0#17) ∨
    (op = 2 ∧ r.req.extractLsb' 0 28 ≠ 0#28) ∨
    (op = 3 ∧ (r.req.extractLsb' 25 3 ≠ 0#3 ∨ (r.req.extractLsb' 24 1 = 0#1 ∧ r.req.extractLsb' 0 16 ≠ 0#16))) ∨
    (op = 4 ∧ (r.req.extractLsb' 4 24 ≠ 0#24 ∨ 6 ≤ (r.req.extractLsb' 0 4).toNat)) ∨
    ((op = 5 ∨ op = 6 ∨ op = 7) ∧ r.req.extractLsb' 16 12 ≠ 0#12) ∨
    (op = 8 ∧ r.req.extractLsb' 0 28 ≠ 0#28) ∨
    r.data.length ≠ (if op = 6 ∨ op = 7 then (r.req.extractLsb' 0 16).toNat else 0)

/-- The LENGTH field as the spec spells it: "0000" without INFO, "E002" with INFO raw, "45303032" doubled
(spec/30_encoding.md R68). -/
def lengthShown (info : Option Half) (lenDbl : Bit) : List Byte :=
  match info with
  | none => [0x30#8, 0x30#8, 0x30#8, 0x30#8]
  | some _ =>
    if lenDbl = 1#1 then [0x34#8, 0x35#8, 0x33#8, 0x30#8, 0x33#8, 0x30#8, 0x33#8, 0x32#8]
    else [0x45#8, 0x30#8, 0x30#8, 0x32#8]

/-- The INFO field as the spec spells it: the four nibbles of the value, most significant first, each as a hex character, or
each character doubled (spec/30_encoding.md R69, decision D12). -/
def infoShown (info : Option Half) (lenDbl : Bit) : List Byte :=
  match info with
  | none => []
  | some v =>
    let chars := [hexChar (v.extractLsb' 12 4), hexChar (v.extractLsb' 8 4), hexChar (v.extractLsb' 4 4),
      hexChar (v.extractLsb' 0 4)]
    if lenDbl = 1#1 then dbl chars else chars

/-- The body of an encoded frame: everything after SOI and before CHKSUM, with ADDR from CFG[7:0] and LEN_DBL from CFG[9]
(spec/00_scope.md glossary, 30_encoding.md R65, 10_state.md R24, R26). -/
def frameBody (p : Params) (cfg : Word) (cid2 : Byte) (info : Option Half) : List Byte :=
  hex2 p.protoVer ++ hex2 (cfg.extractLsb' 0 8) ++ hex2 p.cid1 ++ hex2 cid2 ++ lengthShown info (cfg.extractLsb' 9 1) ++
    infoShown info (cfg.extractLsb' 9 1)

/-- The widths l, n and c of the LENGTH, INFO and CHKSUM fields (the table of spec/30_encoding.md R72). -/
def fieldWidths (cfg : Word) (info : Option Half) : Nat × Nat × Nat :=
  let c := if cfgChkDbl cfg = 1#1 then 8 else 4
  match info with
  | none => (4, 0, c)
  | some _ => if cfgLenDbl cfg = 1#1 then (8, 8, c) else (4, 4, c)

/-- How many of the events are requests (spec/70_reset_and_hazards.md R241). -/
def requestsIn : List Event → Nat
  | [] => 0
  | .request _ :: es => requestsIn es + 1
  | .reset :: es => requestsIn es

/-- Pushing a list of chunks, one RXPUSH each, in order (spec/42_receiver.md R159, spec/70_reset_and_hazards.md R236). -/
def pushAll (p : Params) : List (List Byte) → State → State
  | [], s => s
  | c :: cs, s => pushAll p cs (pushChunk p c s)

end Sys2Proof.Machine
end

