-- ==== Sys2Proof/Certificates/Slice0/Obligations.lean ====
section
/-! DEFINITION. The statements about the block, from the numbered rules of spec/. FAULT = 0 as a premise is R32's own ("A
claim about the block takes FAULT = 0 throughout as a premise"); the faulted case is stated for every instruction in
`FaultIsStickyAndAnswersEverything`. -/

open Sys2Proof Sys2Proof.Machine

/-! ### Encoding -/

/-- Decoding the request of a well-formed instruction gives the instruction back (30_encoding.md R82, R84, R87). -/
def Obligations.DecodeOfEncodeIsTheInstruction : Prop :=
  ∀ i : Instr, i.wellFormed = true → decode (encode i) = .ok i

/-- A request that decodes is exactly the one its instruction encodes to: no bit of the word and no DATA byte is ignored
(30_encoding.md R83, R87). -/
def Obligations.EncodeOfDecodeIsTheRequest : Prop :=
  ∀ (r : Request) (i : Instr), decode r = .ok i → i.wellFormed = true ∧ encode i = r

/-- At most one row of the table matches a word, so the order of the scan makes no difference (30_encoding.md R85). -/
def Obligations.AtMostOneRowMatchesAWord : Prop :=
  ∀ w : Word, ∀ row ∈ requestTable, ∀ row' ∈ requestTable, row.fits w = true → row'.fits w = true →
    row.mnemonic = row'.mnemonic

/-- The words of the operation sections, each in its example or as its fixed encoding, decode to the operations they stand for
(44_control.md R190, R191; 41_encoder.md R129, R130; 43_commands.md R181 to R186; 40_checksum.md R104, R105; 42_receiver.md
R151, R161). So do CFGW words whose doubling flags differ, placed by the layout of 30_encoding.md R82, and the PCHK of FF FF of
95_test_vectors.md L2. -/
def Obligations.DecodingReadsTheWordsOfTheSpec : Prop :=
  let text : List Byte :=
    [0x32#8, 0x30#8, 0x30#8, 0x31#8, 0x34#8, 0x30#8, 0x34#8, 0x33#8, 0x45#8, 0x30#8, 0x30#8, 0x32#8, 0x30#8, 0x30#8]
  decode ⟨0x10000102#32, []⟩ = .ok (.cfgw 0x02#8 1#1 0#1 0#1) ∧
  decode ⟨0x100006FF#32, []⟩ = .ok (.cfgw 0xFF#8 0#1 1#1 1#1) ∧
  decode ⟨0x10000201#32, []⟩ = .ok (.cfgw 0x01#8 0#1 1#1 0#1) ∧
  decode ⟨0x10000401#32, []⟩ = .ok (.cfgw 0x01#8 0#1 0#1 1#1) ∧
  decode ⟨0x20000000#32, []⟩ = .ok .cfgr ∧
  decode ⟨0x304D0000#32, []⟩ = .ok (.enc 0x4D#8) ∧
  decode ⟨0x314200FF#32, []⟩ = .ok (.enci 0x42#8 0x00FF#16) ∧
  decode ⟨0x40000000#32, []⟩ = .ok .cmdTime ∧
  decode ⟨0x40000001#32, []⟩ = .ok .cmdPver ∧
  decode ⟨0x40000002#32, []⟩ = .ok .cmdDaddr ∧
  decode ⟨0x40000003#32, []⟩ = .ok .cmdManuf ∧
  decode ⟨0x40000004#32, []⟩ = .ok .cmdAnalog0 ∧
  decode ⟨0x40000005#32, []⟩ = .ok .cmdAnalog1 ∧
  decode ⟨0x50000012#32, []⟩ = .ok (.lchk 0x0012#16) ∧
  decode ⟨0x6000000E#32, text⟩ = .ok (.pchk text) ∧
  decode ⟨0x60000002#32, [0xFF#8, 0xFF#8]⟩ = .ok (.pchk [0xFF#8, 0xFF#8]) ∧
  decode ⟨0x70000003#32, [0x3E#8, 0x22#8, 0x0D#8]⟩ = .ok (.rxpush [0x3E#8, 0x22#8, 0x0D#8]) ∧
  decode ⟨0x80000000#32, []⟩ = .ok .rxpeek

/-- The requests that decode to nothing are exactly the reserved and illegal ones of the layouts (30_encoding.md R82, R83,
R86, R87; 43_commands.md R187). -/
def Obligations.UndecodableRequestsAreTheIllegalOnes : Prop :=
  ∀ r : Request, (∃ e, decode r = .error e) ↔ IllegalRequest r

/-- Every reserved or illegal request is answered with ILLEGAL_REQUEST, VALUE 0 and no data; it writes no state and emits
nothing else (30_encoding.md R86). -/
def Obligations.IllegalRequestsAreRefusedWithoutEffect : Prop :=
  ∀ (s : State) (r : Request) (es : List Event), s.pending = .request r :: es → s.fault = false → IllegalRequest r →
    step s = .next { s with pending := es, out := s.out ++ [.response ⟨0x6#4, 0#32, []⟩] }

/-- The pseudo-operations stand for the requests R90 names: CMD.ANALOG f for CMD.ANALOG0 or CMD.ANALOG1, ENC with INFO for
ENCI, RESET for the reset input (30_encoding.md R90). -/
def Obligations.PseudoOperationsStandForTheirRequests : Prop :=
  (∃ r, Pseudo.expand (.analog 0#1) = .request r ∧ decode r = .ok .cmdAnalog0) ∧
  (∃ r, Pseudo.expand (.analog 1#1) = .request r ∧ decode r = .ok .cmdAnalog1) ∧
  (∀ cid2 info, ∃ r, Pseudo.expand (.encInfo cid2 info) = .request r ∧ decode r = .ok (.enci cid2 info)) ∧
  Pseudo.expand .reset = .reset

/-! ### The step, reset and FAULT -/

/-- When the oldest event is a request that decodes to i, the step is exec of i on the state with that event taken
(30_encoding.md R85, 00_scope.md R2). -/
def Obligations.StepRunsTheDecodedInstruction : Prop :=
  ∀ (s : State) (r : Request) (es : List Event) (i : Instr), s.pending = .request r :: es → decode r = .ok i →
    step s = exec i { s with pending := es }

/-- The reset input sets CFG, RXBUF and FAULT to their reset values, delivers and emits nothing and makes no response, and the
state after power-on has the same values (70_reset_and_hazards.md R230, R231). That issued events and past outputs stand is
the model's choice (log 11). -/
def Obligations.ResetSetsEveryRegisterAndEmitsNothing : Prop :=
  (∀ (s : State) (es : List Event), s.pending = .reset :: es →
    step s = .next { s with cfg := 0x00000001#32, rxbuf := [], fault := false, pending := es }) ∧
  State.reset.cfg = 0x00000001#32 ∧ State.reset.rxbuf = [] ∧ State.reset.fault = false ∧
  cfgAddr State.reset.cfg = 0x01#8 ∧ cfgSoiSel State.reset.cfg = 0#1 ∧ cfgLenDbl State.reset.cfg = 0#1 ∧
  cfgChkDbl State.reset.cfg = 0#1 ∧ cfgReserved State.reset.cfg = 0#21

/-- With no event issued the block waits, unchanged. The model's choice, log 1 (70_reset_and_hazards.md R232). -/
def Obligations.WaitingBlockIsUnchanged : Prop :=
  ∀ s : State, s.pending = [] → step s = .next s

/-- FAULT (10_state.md R32): an RXPUSH that would exceed RX_CAP sets it, under any parameters; while it is 1 every request,
whatever its word, and every instruction, is answered with CAPACITY_FAULT, VALUE 0 and no data, writes nothing and emits
nothing else; and only reset clears it. -/
def Obligations.FaultIsStickyAndAnswersEverything : Prop :=
  (∀ (p : Params) (cap : Nat) (c : List Byte) (s : State), s.fault = false → p.rxCap = some cap →
    cap < s.rxbuf.length + c.length → (pushChunk p c s).fault = true) ∧
  (∀ (s : State) (r : Request) (es : List Event), s.pending = .request r :: es → s.fault = true →
    step s = .next { s with pending := es, out := s.out ++ [.response ⟨0x7#4, 0#32, []⟩] }) ∧
  (∀ (i : Instr) (s : State), s.fault = true →
    exec i s = .next { s with out := s.out ++ [.response ⟨0x7#4, 0#32, []⟩] }) ∧
  (∀ s t : State, s.fault = true → step s = .next t → t.fault = false → ∃ es, s.pending = .reset :: es)

/-- A request is one transaction: it takes the event, appends at most one frame and then exactly one response, whose VALUE
is 0, whose DATA is empty and before which nothing is emitted when STATUS is not OK, and whose DATA is non-empty only for
RXPEEK (30_encoding.md R81, 20_memory.md R49). -/
def Obligations.EveryRequestEndsWithOneResponse : Prop :=
  ∀ (s : State) (r : Request) (es : List Event), s.pending = .request r :: es →
    ∃ (t : State) (emitted : List Output) (resp : Response), step s = .next t ∧ t.pending = es ∧
      t.out = s.out ++ emitted ++ [.response resp] ∧ responses emitted = [] ∧ emitted.length ≤ 1 ∧
      (resp.status ≠ 0x0#4 → resp.value = 0#32 ∧ resp.data = [] ∧ emitted = []) ∧
      (resp.data ≠ [] → r.req = 0x80000000#32)

/-- What an error response leaves (60_exceptions.md R212): after MALFORMED or INVALID_VERSION an RXPUSH's chunk is appended
and nothing else changed; after a CAPACITY_FAULT with FAULT = 0 before, FAULT is set by an RXPUSH and nothing else changed;
after any other error nothing changed; and no error emits a frame. -/
def Obligations.ErrorsLeaveExactlyTheStateOfTheTable : Prop :=
  ∀ (s t : State) (r : Request) (es : List Event) (emitted : List Output) (resp : Response),
    s.pending = .request r :: es → step s = .next t → t.out = s.out ++ emitted ++ [.response resp] →
    resp.status ≠ 0x0#4 →
      emitted = [] ∧ t.cfg = s.cfg ∧ t.pending = es ∧
      (if resp.status = 0x4#4 ∨ resp.status = 0x5#4 then
        ∃ c, decode r = .ok (.rxpush c) ∧ t.rxbuf = s.rxbuf ++ c ∧ t.fault = s.fault
      else if resp.status = 0x7#4 ∧ s.fault = false then
        ∃ c, decode r = .ok (.rxpush c) ∧ t.rxbuf = s.rxbuf ∧ t.fault = true
      else t.rxbuf = s.rxbuf ∧ t.fault = s.fault)

/-- Running as many steps as there are issued events takes them all, in any state: every request has its own response, in no
other transaction, and nothing already emitted is changed (60_exceptions.md R219, 70_reset_and_hazards.md R241). That a reset
among the events leaves the later ones and the past outputs standing is the model's choice (log 11). -/
def Obligations.EveryIssuedRequestIsAnswered : Prop :=
  ∀ s : State, ∃ (t : State) (new : List Output),
    Sys2Proof.core.run s.pending.length s = .next t ∧ t.pending = [] ∧ t.out = s.out ++ new ∧
      (responses new).length = requestsIn s.pending

/-- Every instruction answers a next state in every state; what is already emitted and what is still issued stand as they
were (60_exceptions.md R200, 20_memory.md R49). -/
def Obligations.EveryInstructionOnlyAppendsOutput : Prop :=
  ∀ (i : Instr) (s : State), ∃ (t : State) (new : List Output),
    exec i s = .next t ∧ t.pending = s.pending ∧ t.out = s.out ++ new

/-- The status codes are a tagged union: the codes of R201, with bit 3 marking the transport class, and every 4-bit code is
one status (60_exceptions.md R201, R202, R203). -/
def Obligations.StatusCodesAreATaggedUnion : Prop :=
  (∀ st : Status, statusOfCode st.code = st) ∧ (∀ c : BitVec 4, (statusOfCode c).code = c) ∧
  (∀ c : BitVec 4, c.getLsbD 3 = true ↔ ∃ k, statusOfCode c = .transport k) ∧
  Status.code .ok = 0x0#4 ∧ ProtocolError.lengthOverflow.code = 0x1#4 ∧ ProtocolError.emptyPayload.code = 0x2#4 ∧
  ProtocolError.zeroChecksum.code = 0x3#4 ∧ ProtocolError.malformed.code = 0x4#4 ∧
  ProtocolError.invalidVersion.code = 0x5#4 ∧ ProtocolError.illegalRequest.code = 0x6#4 ∧
  ProtocolError.capacityFault.code = 0x7#4

/-- The parameters of the modelled block satisfy R4 and the bound on RX_CAP, whatever their open values (00_scope.md R4 and
section 3). -/
def Obligations.ParametersMeetTheirConstraints : Prop := Config.params.wf = true

/-! ### The invariant -/

/-- The invariant holds right after reset. -/
def Obligations.ResetStateMeetsTheInvariant : Prop := State.reset.Inv

/-- Every step keeps the invariant: CFG[31:11] are zero, RXBUF is within RX_CAP and never a frame VALIDATE accepts, every frame
ever put on TX is SOI, hex text, EOI of one of the five lengths, every frame on RXF is one VALIDATE accepts, and no response
has a transport code or a value beside an error (10_state.md R28, R30, R31; 30_encoding.md R73; 42_receiver.md R160;
60_exceptions.md R203). -/
def Obligations.EveryStepKeepsTheInvariant : Prop :=
  ∀ s t : State, s.Inv → step s = .next t → t.Inv

/-- RXBUF stays within RX_CAP at every transaction boundary (10_state.md R30), under any parameters: an RXPUSH that would break
the bound appends nothing and sets FAULT, with RX_CAP unbounded the bound never applies, and every step of the modelled block
keeps the bound. -/
def Obligations.ReceiveBufferStaysWithinCapacity : Prop :=
  (∀ (p : Params) (c : List Byte) (s : State), fitsCapacity p s.rxbuf.length = true →
    fitsCapacity p (pushChunk p c s).rxbuf.length = true) ∧
  (∀ (p : Params) (cap : Nat) (c : List Byte) (s : State), s.fault = false → p.rxCap = some cap →
    cap < s.rxbuf.length + c.length → (pushChunk p c s).rxbuf = s.rxbuf ∧ (pushChunk p c s).fault = true) ∧
  (∀ (p : Params) (n : Nat), p.rxCap = none → fitsCapacity p n = true) ∧
  (∀ s t : State, s.WithinCapacity → step s = .next t → t.WithinCapacity)

/-- Only CFGW and reset write CFG (10_state.md R23). -/
def Obligations.OnlyCfgwAndResetWriteCfg : Prop :=
  ∀ s t : State, step s = .next t → t.cfg ≠ s.cfg →
    (∃ es, s.pending = .reset :: es) ∨
      (∃ r es a b c d, s.pending = .request r :: es ∧ decode r = .ok (.cfgw a b c d))

/-- RXBUF is changed only by an RXPUSH that appends its chunk, by an RXPUSH that delivers the whole buffer and clears it, and by
reset (10_state.md R29). -/
def Obligations.OnlyPushDeliveryAndResetChangeRxbuf : Prop :=
  ∀ s t : State, step s = .next t → t.rxbuf ≠ s.rxbuf →
    (∃ es, s.pending = .reset :: es ∧ t.rxbuf = []) ∨
      (∃ r es c, s.pending = .request r :: es ∧ decode r = .ok (.rxpush c) ∧ s.fault = false ∧
        ((t.rxbuf = s.rxbuf ++ c ∧ rxfFrames t.out = rxfFrames s.out) ∨
          (t.rxbuf = [] ∧ rxfFrames t.out = rxfFrames s.out ++ [s.rxbuf ++ c])))

/-! ### Configuration -/

/-- CFGW completes with OK and VALUE 0, writes all four fields at once, and changes nothing else (44_control.md R190). That
reserved bits which are set stand as they are is the model's choice (log 6): the spec says that none can be set (R28). -/
def Obligations.CfgwWritesTheFourFields : Prop :=
  ∀ (addr : Byte) (soiSel lenDbl chkDbl : Bit) (s : State), s.fault = false →
    ∃ v : Word, exec (.cfgw addr soiSel lenDbl chkDbl) s =
        .next { s with cfg := v, out := s.out ++ [.response ⟨0x0#4, 0#32, []⟩] } ∧
      cfgAddr v = addr ∧ cfgSoiSel v = soiSel ∧ cfgLenDbl v = lenDbl ∧ cfgChkDbl v = chkDbl ∧
      cfgReserved v = cfgReserved s.cfg

/-- CFGR completes with OK, the four fields in their places and VALUE[31:11] = 0, and changes nothing; where the reserved
bits are zero, as R28 says they are, VALUE is CFG itself (44_control.md R191, 10_state.md R28). -/
def Obligations.CfgrReadsTheRegister : Prop :=
  ∀ s : State, s.fault = false →
    ∃ v : Word, exec .cfgr s = .next { s with out := s.out ++ [.response ⟨0x0#4, v, []⟩] } ∧
      cfgAddr v = cfgAddr s.cfg ∧ cfgSoiSel v = cfgSoiSel s.cfg ∧ cfgLenDbl v = cfgLenDbl s.cfg ∧
      cfgChkDbl v = cfgChkDbl s.cfg ∧ cfgReserved v = 0#21 ∧ (s.ReservedZero → v = s.cfg)

/-! ### Checksums -/

/-- The laws of LCHKF and its table (40_checksum.md R101): with the checksum the nibble sum is 0 mod 16; the checksum is 0
exactly when the nibble sum is 0, 16 or 32; it depends on the nibble sum alone; and the values and raw LENGTH fields of the
table. -/
def Obligations.LengthChecksumLaws : Prop :=
  let nibbleSum := fun l : BitVec 12 =>
    (l.extractLsb' 8 4).toNat + (l.extractLsb' 4 4).toNat + (l.extractLsb' 0 4).toNat
  (∀ l, (nibbleSum l + (lchkf l).toNat) % 16 = 0) ∧
  (∀ l, lchkf l = 0#4 ↔ nibbleSum l = 0 ∨ nibbleSum l = 16 ∨ nibbleSum l = 32) ∧
  (∀ l l', nibbleSum l = nibbleSum l' → lchkf l = lchkf l') ∧
  lchkf 0x000#12 = 0x0#4 ∧ lchkf 0x0F1#12 = 0x0#4 ∧ lchkf 0x880#12 = 0x0#4 ∧ lchkf 0xFF2#12 = 0x0#4 ∧
  lengthText 0x001#16 0#1 = .ok [0x46#8, 0x30#8, 0x30#8, 0x31#8] ∧
  lengthText 0x002#16 0#1 = .ok [0x45#8, 0x30#8, 0x30#8, 0x32#8] ∧
  lengthText 0x00E#16 0#1 = .ok [0x32#8, 0x30#8, 0x30#8, 0x45#8] ∧
  lengthText 0x00F#16 0#1 = .ok [0x31#8, 0x30#8, 0x30#8, 0x46#8] ∧
  lengthText 0x010#16 0#1 = .ok [0x46#8, 0x30#8, 0x31#8, 0x30#8] ∧
  lengthText 0x012#16 0#1 = .ok [0x44#8, 0x30#8, 0x31#8, 0x32#8] ∧
  lengthText 0x0F1#16 0#1 = .ok [0x30#8, 0x30#8, 0x46#8, 0x31#8] ∧
  lengthText 0x100#16 0#1 = .ok [0x46#8, 0x31#8, 0x30#8, 0x30#8] ∧
  lengthText 0x123#16 0#1 = .ok [0x41#8, 0x31#8, 0x32#8, 0x33#8] ∧
  lengthText 0x555#16 0#1 = .ok [0x31#8, 0x35#8, 0x35#8, 0x35#8] ∧
  lengthText 0x888#16 0#1 = .ok [0x38#8, 0x38#8, 0x38#8, 0x38#8] ∧
  lengthText 0xABC#16 0#1 = .ok [0x46#8, 0x41#8, 0x42#8, 0x43#8] ∧
  lengthText 0xFFF#16 0#1 = .ok [0x33#8, 0x46#8, 0x46#8, 0x46#8] ∧
  lengthField none 0#1 = .ok [0x30#8, 0x30#8, 0x30#8, 0x30#8]

/-- LCHK completes with OK and the value that brings the nibble sum of LEN to 0 mod 16, zero-extended, when LEN is at most
0xFFF; with LENGTH_OVERFLOW and VALUE 0 above; and changes nothing else (40_checksum.md R104, 60_exceptions.md R204). -/
def Obligations.LchkAnswersTheLengthChecksum : Prop :=
  ∀ (len : Half) (s : State), s.fault = false →
    if len.toNat ≤ 0xFFF then
      ∃ v : Word, exec (.lchk len) s = .next { s with out := s.out ++ [.response ⟨0x0#4, v, []⟩] } ∧ v.toNat < 16 ∧
        ((len.extractLsb' 8 4).toNat + (len.extractLsb' 4 4).toNat + (len.extractLsb' 0 4).toNat + v.toNat) % 16 = 0
    else exec (.lchk len) s = .next { s with out := s.out ++ [.response ⟨0x1#4, 0#32, []⟩] }

/-- The laws of PCHKF (40_checksum.md R103): a checksum brings the byte sum to 0 mod 65536 and is never 0; it fails exactly on
a sum of 0 mod 65536, as on [], on all-zero bytes and on 512 bytes of 0x80; and the order of the bytes does not matter. -/
def Obligations.PayloadChecksumLaws : Prop :=
  (∀ b c, pchkf b = .ok c → (sumBytes b + c.toNat) % 65536 = 0 ∧ 1 ≤ c.toNat ∧ c.toNat ≤ 0xFFFF) ∧
  (∀ b, (∃ e, pchkf b = .error e) ↔ sumBytes b % 65536 = 0) ∧
  (∀ b e, pchkf b = .error e → e = .zeroChecksum) ∧
  (∀ n, pchkf (List.replicate n 0x00#8) = .error .zeroChecksum) ∧
  pchkf (List.replicate 512 0x80#8) = .error .zeroChecksum ∧
  (∀ b b' : List Byte, b.Perm b' → pchkf b = pchkf b')

/-- PCHK completes with OK and 65536 less the byte sum mod 65536 when that is not zero, with ZERO_CHECKSUM and VALUE 0 when it
is, and changes nothing else: no DATA byte reaches RXBUF (40_checksum.md R105, 60_exceptions.md R206). -/
def Obligations.PchkAnswersThePayloadChecksum : Prop :=
  ∀ (data : List Byte) (s : State), s.fault = false →
    if sumBytes data % 65536 = 0 then
      exec (.pchk data) s = .next { s with out := s.out ++ [.response ⟨0x3#4, 0#32, []⟩] }
    else exec (.pchk data) s =
      .next { s with out := s.out ++ [.response ⟨0x0#4, BitVec.ofNat 32 (65536 - sumBytes data % 65536), []⟩] }

/-! ### The encoder -/

/-- The doubled form of each of the sixteen hex characters is the pair of the table, decimal digits only (30_encoding.md
R64). -/
def Obligations.DoubledHexCharactersAreDecimalDigits : Prop :=
  (∀ n : BitVec 4, ∀ b ∈ dbl [hexChar n], 0x30 ≤ b.toNat ∧ b.toNat ≤ 0x39) ∧
  (∀ n : BitVec 4, n.toNat ≤ 9 → dbl [hexChar n] = [0x33#8, BitVec.ofNat 8 (0x30 + n.toNat)]) ∧
  (∀ n : BitVec 4, 10 ≤ n.toNat → dbl [hexChar n] = [0x34#8, BitVec.ofNat 8 (0x31 + (n.toNat - 10))])

/-- ENCODE builds exactly SOI, the body, the text of 65536 less the body sum, and EOI, under any parameters and configuration
(30_encoding.md R65 to R71; 41_encoder.md R121). -/
def Obligations.EncodeBuildsTheFieldSequence : Prop :=
  ∀ (p : Params) (cfg : Word) (cid2 : Byte) (info : Option Half),
    let body := frameBody p cfg cid2 info
    let c : Half := BitVec.ofNat 16 (65536 - sumBytes body)
    encodeFrame p cfg cid2 info =
      .ok ([if cfg.extractLsb' 8 1 = 0#1 then 0x3E#8 else 0x7E#8] ++ body ++
        renderMode (hex2 (c.extractLsb' 8 8) ++ hex2 (c.extractLsb' 0 8)) (cfg.extractLsb' 10 1) ++ [0x0D#8])

/-- The encoder cannot fail (41_encoder.md R131): ENCODE succeeds; the body is hex characters, 12, 16 or 24 bytes, and sums to
576 to 1680; and no ENC, ENCI or CMD transaction answers LENGTH_OVERFLOW, EMPTY_PAYLOAD or ZERO_CHECKSUM. -/
def Obligations.EncodingNeverFails : Prop :=
  (∀ (p : Params) (cfg : Word) (cid2 : Byte) (info : Option Half), (∃ f, encodeFrame p cfg cid2 info = .ok f) ∧
    (∀ b ∈ frameBody p cfg cid2 info, isHexChar b = true) ∧
    (frameBody p cfg cid2 info).length ∈ [12, 16, 24] ∧
    576 ≤ sumBytes (frameBody p cfg cid2 info) ∧ sumBytes (frameBody p cfg cid2 info) ≤ 1680) ∧
  (∀ (i : Instr) (s t : State) (emitted : List Output) (resp : Response),
    ((∃ c, i = .enc c) ∨ (∃ c v, i = .enci c v) ∨
      i ∈ [.cmdTime, .cmdPver, .cmdDaddr, .cmdManuf, .cmdAnalog0, .cmdAnalog1]) →
    exec i s = .next t → t.out = s.out ++ emitted ++ [.response resp] →
      resp.status ≠ 0x1#4 ∧ resp.status ≠ 0x2#4 ∧ resp.status ≠ 0x3#4)

/-- The fields of an encoded frame sit at the offsets of the table and its length is 10 + l + n + c; the body is bytes 1 to
8 + l + n (30_encoding.md R72). -/
def Obligations.FieldsSitAtTheirOffsets : Prop :=
  ∀ (p : Params) (cfg : Word) (cid2 : Byte) (info : Option Half) (f : List Byte), encodeFrame p cfg cid2 info = .ok f →
    let l := (fieldWidths cfg info).1
    let n := (fieldWidths cfg info).2.1
    let c := (fieldWidths cfg info).2.2
    f.length = 10 + l + n + c ∧
    f.take 1 = [soiByte (cfgSoiSel cfg)] ∧ (f.drop 1).take 2 = hex2 p.protoVer ∧
    (f.drop 3).take 2 = hex2 (cfgAddr cfg) ∧ (f.drop 5).take 2 = hex2 p.cid1 ∧ (f.drop 7).take 2 = hex2 cid2 ∧
    (f.drop 9).take l = lengthShown info (cfgLenDbl cfg) ∧ (f.drop (9 + l)).take n = infoShown info (cfgLenDbl cfg) ∧
    (f.drop (9 + l + n)).take c =
      checksumText (BitVec.ofNat 16 (65536 - sumBytes ((f.drop 1).take (8 + l + n)))) (cfgChkDbl cfg) ∧
    f.drop (9 + l + n + c) = [0x0D#8]

/-- Every byte of an encoded frame but the first and the last is a hex character, and so no SOI value and no EOI
(30_encoding.md R73). -/
def Obligations.InnerBytesAreHexCharacters : Prop :=
  ∀ (p : Params) (cfg : Word) (cid2 : Byte) (info : Option Half) (f : List Byte), encodeFrame p cfg cid2 info = .ok f →
    ∀ (k : Nat) (b : Byte), 0 < k → k + 1 < f.length → f[k]? = some b →
      isHexChar b = true ∧ b ≠ 0x0D#8 ∧ b ≠ 0x3E#8 ∧ b ≠ 0x7E#8

/-- The properties of an emitted frame (41_encoder.md R132); its byte 1 is the raw version exactly when the version is 0x33
(conflict C3). -/
def Obligations.EmittedFramesHaveTheStatedProperties : Prop :=
  ∀ (p : Params) (cfg : Word) (cid2 : Byte) (info : Option Half) (f : List Byte), encodeFrame p cfg cid2 info = .ok f →
    f[0]? = some (soiByte (cfgSoiSel cfg)) ∧ f[1]? = some (hexChar (p.protoVer.extractLsb' 4 4)) ∧
    (p.protoVer = 0x22#8 → f[1]? = some 0x32#8) ∧
    f[2]? = some (hexChar (p.protoVer.extractLsb' 0 4)) ∧ f.getLast? = some 0x0D#8 ∧
    (info = none → (f.drop 9).take 4 = [0x30#8, 0x30#8, 0x30#8, 0x30#8]) ∧
    (∃ c : Half, (sumBytes (frameBody p cfg cid2 info) + c.toNat) % 65536 = 0 ∧
      f = [soiByte (cfgSoiSel cfg)] ++ frameBody p cfg cid2 info ++ checksumText c (cfgChkDbl cfg) ++ [0x0D#8]) ∧
    (f[1]? = some p.protoVer ↔ p.protoVer = 0x33#8)

/-- CFG.CHK_DBL doubles the CHKSUM field and touches nothing else: two configurations that differ in it alone give frames
equal up to the CHKSUM field, 4 raw characters in one and their doubled form in the other (10_state.md R27). -/
def Obligations.ChkDblDoublesOnlyTheChksumField : Prop :=
  State.reset.cfg.extractLsb' 10 1 = 0#1 ∧
  ∀ (p : Params) (cfg cfg' : Word) (cid2 : Byte) (info : Option Half) (f f' : List Byte),
    cfgAddr cfg = cfgAddr cfg' → cfgSoiSel cfg = cfgSoiSel cfg' → cfgLenDbl cfg = cfgLenDbl cfg' →
    cfg.extractLsb' 10 1 = 0#1 → cfg'.extractLsb' 10 1 = 1#1 →
    encodeFrame p cfg cid2 info = .ok f → encodeFrame p cfg' cid2 info = .ok f' →
      ∃ front chk : List Byte, chk.length = 4 ∧ f = front ++ chk ++ [0x0D#8] ∧ f' = front ++ dbl chk ++ [0x0D#8]

/-- CFG.LEN_DBL, bit 9, doubles the LENGTH and INFO fields of a frame with INFO and has no effect on one without, whose LENGTH
field is the literal "0000" (10_state.md R26). The four characters of INFO are its nibbles, most significant first
(30_encoding.md R69, decision D12). -/
def Obligations.LenDblDoublesLengthAndInfo : Prop :=
  State.reset.cfg.extractLsb' 9 1 = 0#1 ∧
  (∀ (p : Params) (cfg cfg' : Word) (cid2 : Byte), cfgAddr cfg = cfgAddr cfg' → cfgSoiSel cfg = cfgSoiSel cfg' →
    cfgChkDbl cfg = cfgChkDbl cfg' → encodeFrame p cfg cid2 none = encodeFrame p cfg' cid2 none) ∧
  (∀ (p : Params) (cfg : Word) (cid2 : Byte) (f : List Byte), encodeFrame p cfg cid2 none = .ok f →
    (f.drop 9).take 4 = [0x30#8, 0x30#8, 0x30#8, 0x30#8]) ∧
  (∀ (p : Params) (cfg : Word) (cid2 : Byte) (v : Half) (f : List Byte), encodeFrame p cfg cid2 (some v) = .ok f →
    let shown := [0x45#8, 0x30#8, 0x30#8, 0x32#8] ++ [hexChar (v.extractLsb' 12 4), hexChar (v.extractLsb' 8 4),
      hexChar (v.extractLsb' 4 4), hexChar (v.extractLsb' 0 4)]
    (cfg.extractLsb' 9 1 = 0#1 → (f.drop 9).take 8 = shown) ∧ (cfg.extractLsb' 9 1 = 1#1 → (f.drop 9).take 16 = dbl shown))

/-- ENC completes: it emits its frame on TX, 18 bytes or 22 with CHK_DBL, answers OK with the length and changes nothing else
(41_encoder.md R129, R128). -/
def Obligations.EncTransmitsItsFrame : Prop :=
  ∀ (cid2 : Byte) (s : State), s.fault = false →
    ∃ f : List Byte, encodeFrame Config.params s.cfg cid2 none = .ok f ∧
      f.length = (if cfgChkDbl s.cfg = 1#1 then 22 else 18) ∧
      exec (.enc cid2) s =
        .next { s with out := s.out ++ [.tx f, .response ⟨0x0#4, BitVec.ofNat 32 f.length, []⟩] }

/-- ENCI completes: it emits its frame on TX, 22, 26, 30 or 34 bytes by the two modes, answers OK with the length and changes
nothing else (41_encoder.md R130, R128). -/
def Obligations.EnciTransmitsItsFrame : Prop :=
  ∀ (cid2 : Byte) (info : Half) (s : State), s.fault = false →
    ∃ f : List Byte, encodeFrame Config.params s.cfg cid2 (some info) = .ok f ∧
      f.length = (if cfgLenDbl s.cfg = 1#1 then 30 else 22) + (if cfgChkDbl s.cfg = 1#1 then 4 else 0) ∧
      exec (.enci cid2 info) s =
        .next { s with out := s.out ++ [.tx f, .response ⟨0x0#4, BitVec.ofNat 32 f.length, []⟩] }

/-- CMD.TIME, CMD.PVER, CMD.DADDR, CMD.MANUF, CMD.ANALOG0 and CMD.ANALOG1 complete: each emits the frame of the (cid2, info)
pair of its row, of the length of its row, answers OK with the length and changes nothing else (43_commands.md R180). -/
def Obligations.CommandsTransmitTheirDescriptors : Prop :=
  ∀ s : State, s.fault = false →
    ∀ row ∈ [(Instr.cmdTime, Config.params.cid2Time, (none : Option Half)),
        (Instr.cmdPver, Config.params.cid2Pver, none), (Instr.cmdDaddr, Config.params.cid2Daddr, none),
        (Instr.cmdManuf, Config.params.cid2Manuf, none),
        (Instr.cmdAnalog0, Config.params.cid2Analog0, some 0x00FF#16),
        (Instr.cmdAnalog1, Config.params.cid2Analog1, some 0x00FF#16)],
      ∃ f : List Byte, encodeFrame Config.params s.cfg row.2.1 row.2.2 = .ok f ∧
        f.length = (if row.2.2 = none then 18 else if cfgLenDbl s.cfg = 1#1 then 30 else 22) +
          (if cfgChkDbl s.cfg = 1#1 then 4 else 0) ∧
        exec row.1 s =
          .next { s with out := s.out ++ [.tx f, .response ⟨0x0#4, BitVec.ofNat 32 f.length, []⟩] }

/-- The encoder's three checks, each where it stands: a length above 0xFFF, an empty body, then a body of zero sum; a failed
encode answers its status and neither emits nor writes anything else (41_encoder.md R124, R126, R128). -/
def Obligations.EncoderChecksFailWithoutEffect : Prop :=
  (∀ (l : Half) (d : Bit), 0xFFF < l.toNat → lengthText l d = .error .lengthOverflow) ∧
  (∀ d : Bit, checksumField [] d = .error .emptyPayload) ∧
  (∀ (body : List Byte) (d : Bit), body ≠ [] → sumBytes body % 65536 = 0 →
    checksumField body d = .error .zeroChecksum) ∧
  (∀ (e : ProtocolError) (s : State),
    completeEncode (.error e) s = { s with out := s.out ++ [.response ⟨e.code, 0#32, []⟩] })

/-- A frame the encoder makes, pushed into an empty RXBUF whole or in any chunks that fit RX_CAP, is delivered exactly when
HEXCHAR of the version's high nibble is the version, which is at 0x33 alone; at 0x22 the last non-empty chunk is answered
INVALID_VERSION (41_encoder.md R133; the capacity premise is R152's). -/
def Obligations.EncodedFramesAreDeliveredOnlyAtVersion33 : Prop :=
  (∀ v : Byte, hexChar (v.extractLsb' 4 4) = v ↔ v = 0x33#8) ∧
  (∀ (p : Params) (cfg : Word) (cid2 : Byte) (info : Option Half) (f : List Byte) (chunks : List (List Byte)) (s : State),
    encodeFrame p cfg cid2 info = .ok f → chunks.flatten = f → s.fault = false → s.rxbuf = [] →
    fitsCapacity p f.length = true →
      if p.protoVer = 0x33#8 then
        rxfFrames (pushAll p chunks s).out = rxfFrames s.out ++ [f] ∧ (pushAll p chunks s).rxbuf = []
      else rxfFrames (pushAll p chunks s).out = rxfFrames s.out ∧ (pushAll p chunks s).rxbuf = f) ∧
  (∀ (p : Params) (cfg : Word) (cid2 : Byte) (info : Option Half) (f last : List Byte) (chunks : List (List Byte)) (s : State),
    encodeFrame p cfg cid2 info = .ok f → chunks.flatten ++ last = f → last ≠ [] → p.protoVer = 0x22#8 → s.fault = false →
    s.rxbuf = [] → fitsCapacity p f.length = true →
      ∃ before, (pushAll p (chunks ++ [last]) s).out = before ++ [.response ⟨0x5#4, 0#32, []⟩])

/-! ### The receiver -/

/-- VALIDATE (42_receiver.md R150): MALFORMED below three bytes or on a wrong byte 0, then INVALID_VERSION on a wrong byte 1,
then MALFORMED on a wrong last byte, else ACCEPT, and it reads nothing but the length, byte 0, byte 1 and the last byte. -/
def Obligations.ValidateDecidesByTheFourChecksInOrder : Prop :=
  (∀ (v : Byte) (buf : List Byte), buf.length < 3 → validate v buf = .reject .malformed) ∧
  (∀ (v b0 b1 : Byte) (mid : List Byte) (z : Byte),
    validate v (b0 :: b1 :: (mid ++ [z])) =
      if b0 ≠ 0x3E#8 ∧ b0 ≠ 0x7E#8 then .reject .malformed
      else if b1 ≠ v then .reject .invalidVersion
      else if z ≠ 0x0D#8 then .reject .malformed
      else .accept) ∧
  (∀ (v : Byte) (buf buf' : List Byte), buf.length = buf'.length → buf[0]? = buf'[0]? → buf[1]? = buf'[1]? →
    buf.getLast? = buf'.getLast? → validate v buf = validate v buf')

/-- RXPUSH completes by delivery: when the whole buffer passes VALIDATE and fits, it goes out on RXF, RXBUF is empty, the
response is OK with VALUE 1 and nothing else changes (42_receiver.md R151, R156). -/
def Obligations.RxpushDeliversAnAcceptedBuffer : Prop :=
  ∀ (c : List Byte) (s : State), s.fault = false → fitsCapacity Config.params (s.rxbuf.length + c.length) = true →
    validate Config.params.protoVer (s.rxbuf ++ c) = .accept →
      exec (.rxpush c) s =
        .next { s with
          rxbuf := []
          out := s.out ++ [.rxf (s.rxbuf ++ c), .response ⟨0x0#4, 1#32, []⟩] }

/-- RXPUSH on a buffer VALIDATE rejects keeps every byte, old and new, and answers the error, which is MALFORMED or
INVALID_VERSION; nothing goes out on RXF and nothing else changes (42_receiver.md R154). -/
def Obligations.RxpushKeepsARejectedBuffer : Prop :=
  ∀ (c : List Byte) (s : State) (e : ProtocolError), s.fault = false →
    fitsCapacity Config.params (s.rxbuf.length + c.length) = true → s.rxbuf ++ c ≠ [] →
    validate Config.params.protoVer (s.rxbuf ++ c) = .reject e →
      (e = .malformed ∨ e = .invalidVersion) ∧
      exec (.rxpush c) s =
        .next { s with rxbuf := s.rxbuf ++ c, out := s.out ++ [.response ⟨e.code, 0#32, []⟩] }

/-- RXPUSH of no bytes into an empty RXBUF is IDLE: OK with VALUE 0, nothing emitted, nothing changed (42_receiver.md R153). -/
def Obligations.RxpushOfNothingIntoNothingIsIdle : Prop :=
  ∀ s : State, s.fault = false → s.rxbuf = [] →
    exec (.rxpush []) s = .next { s with out := s.out ++ [.response ⟨0x0#4, 0#32, []⟩] }

/-- RXPUSH over a finite RX_CAP, under any parameters, discards the chunk, leaves RXBUF, sets FAULT and answers CAPACITY_FAULT,
and from then on every instruction is answered so; with RX_CAP unbounded no RXPUSH sets FAULT (42_receiver.md R152). -/
def Obligations.RxpushOverCapacitySetsFault : Prop :=
  (∀ (p : Params) (cap : Nat) (c : List Byte) (s : State), s.fault = false → p.rxCap = some cap →
    cap < s.rxbuf.length + c.length →
      pushChunk p c s = { s with fault := true, out := s.out ++ [.response ⟨0x7#4, 0#32, []⟩] } ∧
      ∀ i : Instr, exec i (pushChunk p c s) =
        .next { pushChunk p c s with out := (pushChunk p c s).out ++ [.response ⟨0x7#4, 0#32, []⟩] }) ∧
  (∀ (p : Params) (c : List Byte) (s : State), s.fault = false → p.rxCap = none → (pushChunk p c s).fault = false)

/-- RXPUSH of the modelled block is the push under its parameters (42_receiver.md R151, log 3). -/
def Obligations.RxpushPushesUnderTheBlocksParameters : Prop :=
  ∀ (c : List Byte) (s : State), exec (.rxpush c) s = .next (pushChunk Config.params c s)

/-- RXPEEK completes with OK, the length of RXBUF modulo 2^32 and a copy of RXBUF, and changes nothing (42_receiver.md R161). -/
def Obligations.RxpeekReturnsTheBuffer : Prop :=
  ∀ s : State, s.fault = false →
    ∃ v : Word, exec .rxpeek s = .next { s with out := s.out ++ [.response ⟨0x0#4, v, s.rxbuf⟩] } ∧
      v.toNat = s.rxbuf.length % 2 ^ 32

/-- Every frame an instruction puts on RXF is the whole buffer of an RXPUSH: at least three bytes, byte 0 a SOI value, byte 1
PROTO_VER, last byte EOI (42_receiver.md R160, R156). -/
def Obligations.OnlyAcceptedBuffersAreDelivered : Prop :=
  ∀ (i : Instr) (s t : State), exec i s = .next t → rxfFrames t.out ≠ rxfFrames s.out →
    ∃ c, i = .rxpush c ∧ rxfFrames t.out = rxfFrames s.out ++ [s.rxbuf ++ c] ∧
      3 ≤ (s.rxbuf ++ c).length ∧ ((s.rxbuf ++ c)[0]? = some 0x3E#8 ∨ (s.rxbuf ++ c)[0]? = some 0x7E#8) ∧
      (s.rxbuf ++ c)[1]? = some Config.params.protoVer ∧ (s.rxbuf ++ c).getLast? = some 0x0D#8

/-- The receiver reads no field of CFG: another CFG changes nothing an RXPUSH or RXPEEK does, and check 2 takes both SOI values
(42_receiver.md R157). -/
def Obligations.ReceiverIgnoresTheConfiguration : Prop :=
  (∀ (c : List Byte) (s t : State) (v : Word), exec (.rxpush c) s = .next t →
    exec (.rxpush c) { s with cfg := v } = .next { t with cfg := v }) ∧
  (∀ (s t : State) (v : Word), exec .rxpeek s = .next t → exec .rxpeek { s with cfg := v } = .next { t with cfg := v }) ∧
  (∀ b : Byte, isSoi b = true ↔ b = 0x3E#8 ∨ b = 0x7E#8)

/-- Nothing but RXPUSH and RXPEEK reads RXBUF: another RXBUF changes nothing else an instruction does, so that no held byte
reaches TX or a response's VALUE (10_state.md R29, 41_encoder.md R120). -/
def Obligations.OnlyTheReceiverReadsRxbuf : Prop :=
  ∀ (i : Instr) (s t : State) (v : List Byte), i ≠ .rxpeek → (∀ c, i ≠ .rxpush c) → exec i s = .next t →
    exec i { s with rxbuf := v } = .next { t with rxbuf := v }

/-- A push into a stuck buffer that fits is rejected and leaves it stuck: MALFORMED when byte 0 is no SOI value, and when byte
1 is wrong MALFORMED at length 2 and INVALID_VERSION from length 3 (42_receiver.md R158). -/
def Obligations.PushIntoAStuckBufferIsRejected : Prop :=
  ∀ (p : Params) (c : List Byte) (s : State), s.fault = false → Stuck p.protoVer s.rxbuf →
    fitsCapacity p (s.rxbuf.length + c.length) = true →
      Stuck p.protoVer (s.rxbuf ++ c) ∧
      pushChunk p c s =
        { s with
          rxbuf := s.rxbuf ++ c
          out := s.out ++ [.response
            ⟨if s.rxbuf[0]?.any isSoi = false ∨ (s.rxbuf ++ c).length = 2 then 0x4#4 else 0x5#4, 0#32, []⟩] }

/-- Once byte 0 or byte 1 of RXBUF is wrong, no run without a reset delivers a frame, whatever the host issues: the buffer stays
stuck (42_receiver.md R158, 70_reset_and_hazards.md R235). -/
def Obligations.AStuckBufferNeverDeliversUntilReset : Prop :=
  ∀ (k : Nat) (s t : State), Stuck Config.params.protoVer s.rxbuf → Event.reset ∉ s.pending.take k →
    Sys2Proof.core.run k s = .next t →
      rxfFrames t.out = rxfFrames s.out ∧ Stuck Config.params.protoVer t.rxbuf

/-- Reset recovers the receiver from any state: after a reset, an RXPUSH of an acceptable frame that fits is delivered
(70_reset_and_hazards.md R235, R230; 42_receiver.md R156). That the request issued behind the reset is still performed, and that
the later events and the past outputs stand, is the model's choice (log 11). -/
def Obligations.ResetRecoversTheReceiver : Prop :=
  ∀ (s : State) (g : List Byte) (r : Request) (es : List Event), s.pending = .reset :: .request r :: es →
    decode r = .ok (.rxpush g) → validate Config.params.protoVer g = .accept →
    fitsCapacity Config.params g.length = true →
      Sys2Proof.core.run 2 s =
        .next { s with
          cfg := 0x00000001#32
          rxbuf := []
          fault := false
          pending := es
          out := s.out ++ [.rxf g, .response ⟨0x0#4, 1#32, []⟩] }

/-- A sequence G that VALIDATE accepts and that has no EOI at an index from 2 to its last but one, pushed into an empty RXBUF in
any chunks whose last is not empty and that fit RX_CAP, is delivered exactly once, whole, by the last chunk; every earlier
chunk that is not empty is answered MALFORMED, an empty one MALFORMED or IDLE (42_receiver.md R159 (a); the capacity premise is
R152's). -/
def Obligations.ChunksDeliverTheirFrameOnceAtTheLastChunk : Prop :=
  ∀ (p : Params) (g last : List Byte) (chunks : List (List Byte)) (s : State),
    validate p.protoVer g = .accept → (∀ k, 2 ≤ k → k + 1 < g.length → g[k]? ≠ some 0x0D#8) →
    chunks.flatten ++ last = g → last ≠ [] → s.fault = false → s.rxbuf = [] → fitsCapacity p g.length = true →
      ∃ early : List Response,
        pushAll p (chunks ++ [last]) s =
          { s with out := s.out ++ early.map Output.response ++ [.rxf g, .response ⟨0x0#4, 1#32, []⟩] } ∧
        early.length = chunks.length ∧
        ∀ (k : Nat) (c : List Byte) (r : Response), chunks[k]? = some c → early[k]? = some r →
          r = ⟨0x4#4, 0#32, []⟩ ∨ (c = [] ∧ r = ⟨0x0#4, 0#32, []⟩)

/-- Two acceptable frames in one chunk are delivered as one frame of their concatenation, and in two chunks as two frames
(42_receiver.md R159 (c); the capacity premise is R152's). -/
def Obligations.FramesAreSplitOnlyByChunks : Prop :=
  ∀ (p : Params) (g g' : List Byte) (s : State), validate p.protoVer g = .accept → validate p.protoVer g' = .accept →
    s.fault = false → s.rxbuf = [] → fitsCapacity p (g.length + g'.length) = true →
      pushAll p [g ++ g'] s = { s with out := s.out ++ [.rxf (g ++ g'), .response ⟨0x0#4, 1#32, []⟩] } ∧
      pushAll p [g, g'] s =
        { s with out := s.out ++ [.rxf g, .response ⟨0x0#4, 1#32, []⟩, .rxf g', .response ⟨0x0#4, 1#32, []⟩] }

/-! ### Whole-machine rules -/

/-- No instruction but CFGW and RXPUSH changes CFG, RXBUF or FAULT, and what it emits depends on those three alone, so that
repeating it gives the same output again; CFGW twice leaves what CFGW once left (20_memory.md R47, 10_state.md R22). -/
def Obligations.StatelessTransactionsRepeat : Prop :=
  (∀ (i : Instr) (s : State), (∀ a b c d, i ≠ .cfgw a b c d) → (∀ c, i ≠ .rxpush c) →
    ∃ new : List Output, ∀ s' : State, s'.cfg = s.cfg → s'.rxbuf = s.rxbuf → s'.fault = s.fault →
      exec i s' = .next { s' with out := s'.out ++ new }) ∧
  (∀ (a : Byte) (b c d : Bit) (s t u : State), exec (.cfgw a b c d) s = .next t → exec (.cfgw a b c d) t = .next u →
    u.cfg = t.cfg ∧ u.rxbuf = t.rxbuf ∧ u.fault = t.fault) ∧
  (∃ (c : List Byte) (s t u : State), exec (.rxpush c) s = .next t ∧ exec (.rxpush c) t = .next u ∧
    rxfFrames t.out ≠ rxfFrames s.out ∧ rxfFrames u.out = rxfFrames t.out)
end

