-- ==== Sys2Proof/Laws/Bits.lean ====
section
/-! SUPPORT. Bits of placed fields: what a bit of a request word or of CFG is (spec/30_encoding.md R84,
spec/10_state.md R23). -/

namespace Sys2Proof

/-- Bit i of a field placed at bit `lo` is bit i - lo of the field. -/
theorem getLsbD_placeAt {w : Nat} (v : BitVec w) (lo i : Nat) :
    (placeAt v lo).getLsbD i = (decide (i < 32) && decide (lo ≤ i) && v.getLsbD (i - lo)) := by
  simp only [placeAt, BitVec.getLsbD_shiftLeft, BitVec.getLsbD_setWidth]
  by_cases h1 : i < 32
  · by_cases h2 : i < lo
    · simp [h1, h2]
    · have : i - lo < 32 := by omega
      simp [h1, h2, this, Nat.le_of_not_lt h2]
  · simp [h1]

end Sys2Proof

namespace Sys2Proof.Machine

@[simp] theorem cfgAddr_withFields (cfg : Word) (a : Byte) (s l c : Bit) : cfgAddr (cfgWithFields cfg a s l c) = a := by
  apply BitVec.eq_of_getLsbD_eq
  intro i hi
  simp only [cfgAddr, cfgWithFields, BitVec.getLsbD_extractLsb', BitVec.getLsbD_or, getLsbD_placeAt]
  interval_cases i <;> simp

@[simp] theorem cfgSoiSel_withFields (cfg : Word) (a : Byte) (s l c : Bit) : cfgSoiSel (cfgWithFields cfg a s l c) = s := by
  apply BitVec.eq_of_getLsbD_eq
  intro i hi
  simp only [cfgSoiSel, cfgWithFields, BitVec.getLsbD_extractLsb', BitVec.getLsbD_or, getLsbD_placeAt]
  interval_cases i
  simp

@[simp] theorem cfgLenDbl_withFields (cfg : Word) (a : Byte) (s l c : Bit) : cfgLenDbl (cfgWithFields cfg a s l c) = l := by
  apply BitVec.eq_of_getLsbD_eq
  intro i hi
  simp only [cfgLenDbl, cfgWithFields, BitVec.getLsbD_extractLsb', BitVec.getLsbD_or, getLsbD_placeAt]
  interval_cases i
  simp

@[simp] theorem cfgChkDbl_withFields (cfg : Word) (a : Byte) (s l c : Bit) : cfgChkDbl (cfgWithFields cfg a s l c) = c := by
  apply BitVec.eq_of_getLsbD_eq
  intro i hi
  simp only [cfgChkDbl, cfgWithFields, BitVec.getLsbD_extractLsb', BitVec.getLsbD_or, getLsbD_placeAt]
  interval_cases i
  simp

@[simp] theorem cfgReserved_withFields (cfg : Word) (a : Byte) (s l c : Bit) :
    cfgReserved (cfgWithFields cfg a s l c) = cfgReserved cfg := by
  apply BitVec.eq_of_getLsbD_eq
  intro i hi
  simp only [cfgReserved, cfgWithFields, BitVec.getLsbD_extractLsb', BitVec.getLsbD_or, getLsbD_placeAt]
  interval_cases i <;> simp

theorem cfgReserved_reset : cfgReserved Config.cfgReset = 0#21 := by decide

end Sys2Proof.Machine
end

