-- ==== Sys2Proof/Laws/State.lean ====
section
/-! SUPPORT. One lemma per field for each update of the state, so that no later proof unfolds an update. -/

namespace Sys2Proof.Machine

@[simp] theorem State.emit_cfg (s : State) (o : Output) : (s.emit o).cfg = s.cfg := rfl
@[simp] theorem State.emit_rxbuf (s : State) (o : Output) : (s.emit o).rxbuf = s.rxbuf := rfl
@[simp] theorem State.emit_fault (s : State) (o : Output) : (s.emit o).fault = s.fault := rfl
@[simp] theorem State.emit_pending (s : State) (o : Output) : (s.emit o).pending = s.pending := rfl
@[simp] theorem State.emit_out (s : State) (o : Output) : (s.emit o).out = s.out ++ [o] := rfl

@[simp] theorem State.setCfg_cfg (s : State) (v : Word) : (s.setCfg v).cfg = v := rfl
@[simp] theorem State.setCfg_rxbuf (s : State) (v : Word) : (s.setCfg v).rxbuf = s.rxbuf := rfl
@[simp] theorem State.setCfg_fault (s : State) (v : Word) : (s.setCfg v).fault = s.fault := rfl
@[simp] theorem State.setCfg_pending (s : State) (v : Word) : (s.setCfg v).pending = s.pending := rfl
@[simp] theorem State.setCfg_out (s : State) (v : Word) : (s.setCfg v).out = s.out := rfl

@[simp] theorem State.setRxbuf_cfg (s : State) (v : List Byte) : (s.setRxbuf v).cfg = s.cfg := rfl
@[simp] theorem State.setRxbuf_rxbuf (s : State) (v : List Byte) : (s.setRxbuf v).rxbuf = v := rfl
@[simp] theorem State.setRxbuf_fault (s : State) (v : List Byte) : (s.setRxbuf v).fault = s.fault := rfl
@[simp] theorem State.setRxbuf_pending (s : State) (v : List Byte) : (s.setRxbuf v).pending = s.pending := rfl
@[simp] theorem State.setRxbuf_out (s : State) (v : List Byte) : (s.setRxbuf v).out = s.out := rfl

@[simp] theorem State.setFault_cfg (s : State) (v : Bool) : (s.setFault v).cfg = s.cfg := rfl
@[simp] theorem State.setFault_rxbuf (s : State) (v : Bool) : (s.setFault v).rxbuf = s.rxbuf := rfl
@[simp] theorem State.setFault_fault (s : State) (v : Bool) : (s.setFault v).fault = v := rfl
@[simp] theorem State.setFault_pending (s : State) (v : Bool) : (s.setFault v).pending = s.pending := rfl
@[simp] theorem State.setFault_out (s : State) (v : Bool) : (s.setFault v).out = s.out := rfl

@[simp] theorem State.setPending_cfg (s : State) (v : List Event) : (s.setPending v).cfg = s.cfg := rfl
@[simp] theorem State.setPending_rxbuf (s : State) (v : List Event) : (s.setPending v).rxbuf = s.rxbuf := rfl
@[simp] theorem State.setPending_fault (s : State) (v : List Event) : (s.setPending v).fault = s.fault := rfl
@[simp] theorem State.setPending_pending (s : State) (v : List Event) : (s.setPending v).pending = v := rfl
@[simp] theorem State.setPending_out (s : State) (v : List Event) : (s.setPending v).out = s.out := rfl

@[simp] theorem emitTx_cfg (f : List Byte) (s : State) : (emitTx f s).cfg = s.cfg := rfl
@[simp] theorem emitTx_rxbuf (f : List Byte) (s : State) : (emitTx f s).rxbuf = s.rxbuf := rfl
@[simp] theorem emitTx_fault (f : List Byte) (s : State) : (emitTx f s).fault = s.fault := rfl
@[simp] theorem emitTx_pending (f : List Byte) (s : State) : (emitTx f s).pending = s.pending := rfl
@[simp] theorem emitTx_out (f : List Byte) (s : State) : (emitTx f s).out = s.out ++ [.tx f] := rfl

@[simp] theorem emitRxf_cfg (f : List Byte) (s : State) : (emitRxf f s).cfg = s.cfg := rfl
@[simp] theorem emitRxf_rxbuf (f : List Byte) (s : State) : (emitRxf f s).rxbuf = s.rxbuf := rfl
@[simp] theorem emitRxf_fault (f : List Byte) (s : State) : (emitRxf f s).fault = s.fault := rfl
@[simp] theorem emitRxf_pending (f : List Byte) (s : State) : (emitRxf f s).pending = s.pending := rfl
@[simp] theorem emitRxf_out (f : List Byte) (s : State) : (emitRxf f s).out = s.out ++ [.rxf f] := rfl

@[simp] theorem respond_cfg (c : Status) (v : Word) (d : List Byte) (s : State) : (respond c v d s).cfg = s.cfg := rfl
@[simp] theorem respond_rxbuf (c : Status) (v : Word) (d : List Byte) (s : State) : (respond c v d s).rxbuf = s.rxbuf := rfl
@[simp] theorem respond_fault (c : Status) (v : Word) (d : List Byte) (s : State) : (respond c v d s).fault = s.fault := rfl
@[simp] theorem respond_pending (c : Status) (v : Word) (d : List Byte) (s : State) : (respond c v d s).pending = s.pending := rfl
@[simp] theorem respond_out (c : Status) (v : Word) (d : List Byte) (s : State) : (respond c v d s).out = s.out ++ [.response ⟨c.code, v, d⟩] := rfl

@[simp] theorem raise_cfg (e : ProtocolError) (s : State) : (raise e s).cfg = s.cfg := rfl
@[simp] theorem raise_rxbuf (e : ProtocolError) (s : State) : (raise e s).rxbuf = s.rxbuf := rfl
@[simp] theorem raise_fault (e : ProtocolError) (s : State) : (raise e s).fault = s.fault := rfl
@[simp] theorem raise_pending (e : ProtocolError) (s : State) : (raise e s).pending = s.pending := rfl
@[simp] theorem raise_out (e : ProtocolError) (s : State) : (raise e s).out = s.out ++ [.response ⟨e.code, 0#32, []⟩] := rfl

@[simp] theorem appendRx_cfg (c : List Byte) (s : State) : (appendRx c s).cfg = s.cfg := rfl
@[simp] theorem appendRx_rxbuf (c : List Byte) (s : State) : (appendRx c s).rxbuf = s.rxbuf ++ c := rfl
@[simp] theorem appendRx_fault (c : List Byte) (s : State) : (appendRx c s).fault = s.fault := rfl
@[simp] theorem appendRx_pending (c : List Byte) (s : State) : (appendRx c s).pending = s.pending := rfl
@[simp] theorem appendRx_out (c : List Byte) (s : State) : (appendRx c s).out = s.out := rfl

@[simp] theorem capacityOverflow_cfg (s : State) : (capacityOverflow s).cfg = s.cfg := rfl
@[simp] theorem capacityOverflow_rxbuf (s : State) : (capacityOverflow s).rxbuf = s.rxbuf := rfl
@[simp] theorem capacityOverflow_fault (s : State) : (capacityOverflow s).fault = true := rfl
@[simp] theorem capacityOverflow_pending (s : State) : (capacityOverflow s).pending = s.pending := rfl
@[simp] theorem capacityOverflow_out (s : State) : (capacityOverflow s).out = s.out ++ [.response ⟨0x7#4, 0#32, []⟩] := rfl

@[simp] theorem deliver_cfg (s : State) : (deliver s).cfg = s.cfg := rfl
@[simp] theorem deliver_rxbuf (s : State) : (deliver s).rxbuf = [] := rfl
@[simp] theorem deliver_fault (s : State) : (deliver s).fault = s.fault := rfl
@[simp] theorem deliver_pending (s : State) : (deliver s).pending = s.pending := rfl
@[simp] theorem deliver_out (s : State) : (deliver s).out = s.out ++ [.rxf s.rxbuf] ++ [.response ⟨0x0#4, 1#32, []⟩] := rfl

@[simp] theorem resetBlock_cfg (s : State) : (resetBlock s).cfg = Config.cfgReset := rfl
@[simp] theorem resetBlock_rxbuf (s : State) : (resetBlock s).rxbuf = [] := rfl
@[simp] theorem resetBlock_fault (s : State) : (resetBlock s).fault = false := rfl
@[simp] theorem resetBlock_pending (s : State) : (resetBlock s).pending = s.pending := rfl
@[simp] theorem resetBlock_out (s : State) : (resetBlock s).out = s.out := rfl

@[simp] theorem issueNext_cfg (e : Event) (s : State) : (issueNext e s).cfg = s.cfg := rfl
@[simp] theorem issueNext_rxbuf (e : Event) (s : State) : (issueNext e s).rxbuf = s.rxbuf := rfl
@[simp] theorem issueNext_fault (e : Event) (s : State) : (issueNext e s).fault = s.fault := rfl
@[simp] theorem issueNext_pending (e : Event) (s : State) : (issueNext e s).pending = e :: s.pending := rfl
@[simp] theorem issueNext_out (e : Event) (s : State) : (issueNext e s).out = s.out := rfl

end Sys2Proof.Machine
end

