-- ==== Sys2Proof/Laws/Ops.lean ====
section
/-! SUPPORT. For each shared operation, what it can do, said once. -/

namespace Sys2Proof.Machine

/-- Completing a transaction appends one response and changes nothing else. -/
theorem respond_eq (c : Status) (v : Word) (d : List Byte) (s : State) :
    respond c v d s = { s with out := s.out ++ [.response ⟨c.code, v, d⟩] } := rfl

/-- An error appends its response, VALUE 0 and no data, and changes nothing else (R200, R212). -/
theorem raise_eq (e : ProtocolError) (s : State) :
    raise e s = { s with out := s.out ++ [.response ⟨e.code, 0#32, []⟩] } := rfl

/-- A transaction on a faulted block is CAPACITY_FAULT and writes nothing (R32). -/
@[simp] theorem unlessFaulted_of_fault {s : State} (t : State) (h : s.fault = true) :
    unlessFaulted s t = { s with out := s.out ++ [.response ⟨0x7#4, 0#32, []⟩] } := by
  simp [unlessFaulted, h, raise_eq, ProtocolError.code]

/-- A transaction with FAULT = 0 is the operation's own. -/
@[simp] theorem unlessFaulted_of_clear {s : State} (t : State) (h : s.fault = false) : unlessFaulted s t = t := by
  simp [unlessFaulted, h]

/-- The two cases of a transaction (R32, R85). -/
theorem unlessFaulted_cases (s t : State) :
    (s.fault = true ∧ unlessFaulted s t = { s with out := s.out ++ [.response ⟨0x7#4, 0#32, []⟩] }) ∨
      (s.fault = false ∧ unlessFaulted s t = t) := by
  cases h : s.fault <;> simp [h]

/-- The capacity fault sets FAULT, answers, and changes nothing else (R152). -/
theorem capacityOverflow_eq (s : State) :
    capacityOverflow s = { s with fault := true, out := s.out ++ [.response ⟨0x7#4, 0#32, []⟩] } := rfl

/-- Delivery empties RXBUF, puts the frame out and answers OK, 1 (R156). -/
theorem deliver_eq (s : State) :
    deliver s = { s with rxbuf := [], out := s.out ++ [.rxf s.rxbuf] ++ [.response ⟨0x0#4, 1#32, []⟩] } := rfl

/-- A judged buffer is idle, rejected and kept, or delivered (R153, R154, R156). -/
theorem judgeBuffer_cases (p : Params) (s : State) :
    (s.rxbuf = [] ∧ judgeBuffer p s = { s with out := s.out ++ [.response ⟨0x0#4, 0#32, []⟩] }) ∨
      (s.rxbuf ≠ [] ∧ ∃ e, validate p.protoVer s.rxbuf = .reject e ∧
        judgeBuffer p s = { s with out := s.out ++ [.response ⟨e.code, 0#32, []⟩] }) ∨
      (s.rxbuf ≠ [] ∧ validate p.protoVer s.rxbuf = .accept ∧ judgeBuffer p s = deliver s) := by
  unfold judgeBuffer
  by_cases hb : s.rxbuf = []
  · simp [hb, respond_eq, Status.code]
  · have hl : s.rxbuf.length ≠ 0 := by simp [hb]
    cases hv : validate p.protoVer s.rxbuf with
    | accept => simp [hb]
    | reject e => simp [hb, raise_eq]

/-- Everything an RXPUSH can do (R32, R151 to R156). -/
theorem pushChunk_cases (p : Params) (c : List Byte) (s : State) :
    (s.fault = true ∧ pushChunk p c s = { s with out := s.out ++ [.response ⟨0x7#4, 0#32, []⟩] }) ∨
      (s.fault = false ∧ fitsCapacity p (s.rxbuf.length + c.length) = false ∧
        pushChunk p c s = { s with fault := true, out := s.out ++ [.response ⟨0x7#4, 0#32, []⟩] }) ∨
      (s.fault = false ∧ fitsCapacity p (s.rxbuf.length + c.length) = true ∧ s.rxbuf = [] ∧ c = [] ∧
        pushChunk p c s = { s with out := s.out ++ [.response ⟨0x0#4, 0#32, []⟩] }) ∨
      (s.fault = false ∧ fitsCapacity p (s.rxbuf.length + c.length) = true ∧ s.rxbuf ++ c ≠ [] ∧
        ∃ e, validate p.protoVer (s.rxbuf ++ c) = .reject e ∧
          pushChunk p c s =
            { s with rxbuf := s.rxbuf ++ c, out := s.out ++ [.response ⟨e.code, 0#32, []⟩] }) ∨
      (s.fault = false ∧ fitsCapacity p (s.rxbuf.length + c.length) = true ∧
        validate p.protoVer (s.rxbuf ++ c) = .accept ∧
        pushChunk p c s =
          { s with rxbuf := [], out := s.out ++ [.rxf (s.rxbuf ++ c)] ++ [.response ⟨0x0#4, 1#32, []⟩] }) := by
  cases hf : s.fault
  · cases hc : fitsCapacity p (s.rxbuf.length + c.length)
    · exact .inr (.inl ⟨rfl, rfl, by simp [pushChunk, hf, hc, capacityOverflow_eq]⟩)
    · have key : pushChunk p c s = judgeBuffer p (appendRx c s) := by
        rw [pushChunk, unlessFaulted_of_clear _ hf, hc, if_pos rfl]
      rcases judgeBuffer_cases p (appendRx c s) with ⟨he, h⟩ | ⟨hne, e, hv, h⟩ | ⟨_, hv, h⟩
      · obtain ⟨h1, h2⟩ : s.rxbuf = [] ∧ c = [] := by simpa using he
        exact .inr (.inr (.inl ⟨rfl, rfl, h1, h2, by simp only [key, h]; simp [h1, h2, hf]⟩))
      · exact .inr (.inr (.inr (.inl ⟨rfl, rfl, by simpa using hne, e, hv, by simp only [key, h]; simp [hf]⟩)))
      · exact .inr (.inr (.inr (.inr ⟨rfl, rfl, hv, by simp only [key, h, deliver_eq]; simp [hf]⟩)))
  · exact .inl ⟨rfl, by simp [pushChunk, hf]⟩

/-- A completed encode is an error's response, or the frame on TX and then its response (R128). -/
theorem completeEncode_cases (r : Except ProtocolError (List Byte)) (s : State) :
    (∃ e, r = .error e ∧ completeEncode r s = { s with out := s.out ++ [.response ⟨e.code, 0#32, []⟩] }) ∨
      (∃ f, r = .ok f ∧ completeEncode r s =
        { s with out := s.out ++ [.tx f] ++ [.response ⟨0x0#4, BitVec.ofNat 32 f.length, []⟩] }) := by
  cases r with
  | error e => exact .inl ⟨e, rfl, rfl⟩
  | ok f => exact .inr ⟨f, rfl, rfl⟩

/-- The three views of an output log are maps over appended logs (R241). -/
@[simp] theorem txFrames_append (a b : List Output) : txFrames (a ++ b) = txFrames a ++ txFrames b := by
  induction a with
  | nil => rfl
  | cons o os ih => cases o <;> simp [txFrames, ih]

@[simp] theorem rxfFrames_append (a b : List Output) : rxfFrames (a ++ b) = rxfFrames a ++ rxfFrames b := by
  induction a with
  | nil => rfl
  | cons o os ih => cases o <;> simp [rxfFrames, ih]

@[simp] theorem responses_append (a b : List Output) : responses (a ++ b) = responses a ++ responses b := by
  induction a with
  | nil => rfl
  | cons o os ih => cases o <;> simp [responses, ih]

@[simp] theorem txFrames_nil : txFrames [] = [] := rfl
@[simp] theorem txFrames_cons_tx (f : List Byte) (os : List Output) : txFrames (.tx f :: os) = f :: txFrames os := rfl
@[simp] theorem txFrames_cons_rxf (f : List Byte) (os : List Output) : txFrames (.rxf f :: os) = txFrames os := rfl
@[simp] theorem txFrames_cons_response (r : Response) (os : List Output) : txFrames (.response r :: os) = txFrames os := rfl

@[simp] theorem rxfFrames_nil : rxfFrames [] = [] := rfl
@[simp] theorem rxfFrames_cons_tx (f : List Byte) (os : List Output) : rxfFrames (.tx f :: os) = rxfFrames os := rfl
@[simp] theorem rxfFrames_cons_rxf (f : List Byte) (os : List Output) : rxfFrames (.rxf f :: os) = f :: rxfFrames os := rfl
@[simp] theorem rxfFrames_cons_response (r : Response) (os : List Output) : rxfFrames (.response r :: os) = rxfFrames os := rfl

@[simp] theorem responses_nil : responses [] = [] := rfl
@[simp] theorem responses_cons_tx (f : List Byte) (os : List Output) : responses (.tx f :: os) = responses os := rfl
@[simp] theorem responses_cons_rxf (f : List Byte) (os : List Output) : responses (.rxf f :: os) = responses os := rfl
@[simp] theorem responses_cons_response (r : Response) (os : List Output) : responses (.response r :: os) = r :: responses os := rfl

end Sys2Proof.Machine
end

