-- ==== Sys2Proof/Laws/Capacity.lean ====
section
/-! SUPPORT. Facts about RX_CAP (spec/10_state.md R30, spec/00_scope.md section 3). -/

namespace Sys2Proof.Machine

/-- A buffer that fits still fits when it is shorter (R30). -/
theorem fitsCapacity_mono {p : Params} {m n : Nat} (hmn : m ≤ n) (h : fitsCapacity p n = true) :
    fitsCapacity p m = true := by
  unfold fitsCapacity at *
  cases hc : p.rxCap with
  | none => rfl
  | some cap =>
    simp only [hc, decide_eq_true_eq] at *
    omega

/-- The empty buffer always fits (R30). -/
theorem fitsCapacity_zero (p : Params) : fitsCapacity p 0 = true := by
  unfold fitsCapacity
  cases p.rxCap <;> simp

/-- A buffer of at most three bytes fits the modelled block, since RX_CAP is at least 3. -/
theorem fitsCapacity_small {n : Nat} (h : n ≤ 3) : fitsCapacity Config.params n = true := by
  unfold fitsCapacity Config.params Config.rxCap
  cases Config.rxCapAboveMinimum with
  | none => rfl
  | some k =>
    simp only [Option.map_some, decide_eq_true_eq]
    omega

end Sys2Proof.Machine
end

