-- ==== Sys2Proof/Laws/Exec.lean ====
section
/-! SUPPORT. What an instruction and a step can do, said once: the inversion lemmas the later proofs cite instead of unfolding
exec and step. -/

namespace Sys2Proof.Machine

/-- The one error of a LENGTH checksum (60_exceptions.md R204). -/
theorem lengthChecksum_error {l : Half} {e : ProtocolError} (h : lengthChecksum l = .error e) : e = .lengthOverflow := by
  unfold lengthChecksum at h
  split at h <;> simp_all

/-- The one error of a payload checksum (R206). -/
theorem pchkf_error {b : List Byte} {e : ProtocolError} (h : pchkf b = .error e) : e = .zeroChecksum := by
  unfold pchkf at h
  simp only at h
  split at h <;> simp_all

/-- The errors an ENCODE can end in (R204 to R206). -/
theorem encodeFrame_error {p : Params} {cfg : Word} {cid2 : Byte} {info : Option Half} {e : ProtocolError}
    (h : encodeFrame p cfg cid2 info = .error e) : e = .lengthOverflow ∨ e = .emptyPayload ∨ e = .zeroChecksum := by
  have hlen : ∀ e', lengthField info (cfgLenDbl cfg) = .error e' → e' = .lengthOverflow := by
    intro e' h'
    cases info with
    | none => simp [lengthField] at h'
    | some v =>
      simp only [lengthField, lengthText] at h'
      split at h'
      · next e'' he => exact lengthChecksum_error (by rw [he]; simpa using h')
      · simp at h'
  have hchk : ∀ body e', checksumField body (cfgChkDbl cfg) = .error e' → e' = .emptyPayload ∨ e' = .zeroChecksum := by
    intro body e' h'
    unfold checksumField at h'
    split at h'
    · simp_all
    · split at h'
      · next e'' he => exact .inr (pchkf_error (by rw [he]; simpa using h'))
      · simp at h'
  unfold encodeFrame at h
  split at h
  · next e' he => exact .inl (hlen e (by rw [he]; simpa using h))
  · simp only at h
    split at h
    · next e' he => exact .inr (hchk _ e (by rw [he]; simpa using h))
    · simp at h

/-- The six things an instruction can do: be turned away by FAULT, write CFG, push a chunk, answer with a value, end in
an encode error, or transmit a frame (10_state.md R32; 44_control.md R190; 42_receiver.md R151; 40_checksum.md R104, R105;
41_encoder.md R128). -/
theorem exec_cases (i : Instr) (s : State) :
    (s.fault = true ∧ exec i s = .next { s with out := s.out ++ [.response ⟨0x7#4, 0#32, []⟩] }) ∨
    (s.fault = false ∧ ∃ a b c d, i = .cfgw a b c d ∧
      exec i s = .next { s with cfg := cfgWithFields s.cfg a b c d, out := s.out ++ [.response ⟨0x0#4, 0#32, []⟩] }) ∨
    (s.fault = false ∧ ∃ c, i = .rxpush c ∧ exec i s = .next (pushChunk Config.params c s)) ∨
    (s.fault = false ∧ ∃ v d, (d ≠ [] → i = .rxpeek) ∧
      exec i s = .next { s with out := s.out ++ [.response ⟨0x0#4, v, d⟩] }) ∨
    (s.fault = false ∧ ∃ e, (e = .lengthOverflow ∨ e = .emptyPayload ∨ e = .zeroChecksum) ∧
      exec i s = .next { s with out := s.out ++ [.response ⟨ProtocolError.code e, 0#32, []⟩] }) ∨
    (s.fault = false ∧ ∃ cid2 info f, encodeFrame Config.params s.cfg cid2 info = .ok f ∧
      exec i s = .next { s with out := s.out ++ [.tx f, .response ⟨0x0#4, BitVec.ofNat 32 f.length, []⟩] }) := by
  rcases Bool.eq_false_or_eq_true s.fault with hf | hf
  · left
    refine ⟨hf, ?_⟩
    cases i <;>
    simp [exec, execCfgw, execCfgr, execEnc, execEnci, execCmdTime, execCmdPver, execCmdDaddr, execCmdManuf,
      execCmdAnalog0, execCmdAnalog1, execLchk, execPchk, execRxpush, execRxpeek, encodeTransaction, pushChunk,
      peekBuffer, hf]
  · have encode_case : ∀ cid2 info, exec i s = .next (encodeTransaction Config.params cid2 info s) →
        (s.fault = false ∧ ∃ e, (e = ProtocolError.lengthOverflow ∨ e = .emptyPayload ∨ e = .zeroChecksum) ∧
          exec i s = .next { s with out := s.out ++ [.response ⟨ProtocolError.code e, 0#32, []⟩] }) ∨
        (s.fault = false ∧ ∃ cid2 info f, encodeFrame Config.params s.cfg cid2 info = .ok f ∧
          exec i s = .next { s with out := s.out ++ [.tx f, .response ⟨0x0#4, BitVec.ofNat 32 f.length, []⟩] }) := by
      intro cid2 info hexec
      rw [hexec, encodeTransaction, unlessFaulted_of_clear _ hf]
      rcases completeEncode_cases (encodeFrame Config.params s.cfg cid2 info) s with ⟨e, he, h⟩ | ⟨f, hok, h⟩
      · exact .inl ⟨hf, e, encodeFrame_error he, congrArg _ h⟩
      · exact .inr ⟨hf, cid2, info, f, hok, by rw [h]; simp⟩
    cases i with
    | cfgw a b c d =>
      exact .inr (.inl ⟨hf, a, b, c, d, rfl, by simp [exec, execCfgw, hf, respond_eq, Status.code, State.setCfg]⟩)
    | rxpush c => exact .inr (.inr (.inl ⟨hf, c, rfl, rfl⟩))
    | lchk len =>
      cases hl : lengthChecksum len with
      | error e =>
        refine .inr (.inr (.inr (.inr (.inl ⟨hf, e, ?_, by simp [exec, execLchk, hf, hl, raise_eq]⟩))))
        exact .inl (lengthChecksum_error hl)
      | ok c =>
        exact .inr (.inr (.inr (.inl ⟨hf, c.setWidth 32, [], by simp, by
          simp [exec, execLchk, hf, hl, respond_eq, Status.code]⟩)))
    | pchk data =>
      cases hl : pchkf data with
      | error e =>
        refine .inr (.inr (.inr (.inr (.inl ⟨hf, e, ?_, by simp [exec, execPchk, hf, hl, raise_eq]⟩))))
        exact .inr (.inr (pchkf_error hl))
      | ok c =>
        exact .inr (.inr (.inr (.inl ⟨hf, c.setWidth 32, [], by simp, by
          simp [exec, execPchk, hf, hl, respond_eq, Status.code]⟩)))
    | cfgr =>
      exact .inr (.inr (.inr (.inl ⟨hf, cfgRead s.cfg, [], by simp, by
        simp [exec, execCfgr, hf, respond_eq, Status.code]⟩)))
    | rxpeek =>
      exact .inr (.inr (.inr (.inl ⟨hf, BitVec.ofNat 32 s.rxbuf.length, s.rxbuf, by simp, by
        simp only [exec, execRxpeek, peekBuffer, unlessFaulted_of_clear _ hf, respond_eq, Status.code]⟩)))
    | enc cid2 => exact .inr <| .inr <| .inr <| .inr <| encode_case cid2 none rfl
    | enci cid2 info => exact .inr <| .inr <| .inr <| .inr <| encode_case cid2 (some info) rfl
    | cmdTime => exact .inr <| .inr <| .inr <| .inr <| encode_case _ none rfl
    | cmdPver => exact .inr <| .inr <| .inr <| .inr <| encode_case _ none rfl
    | cmdDaddr => exact .inr <| .inr <| .inr <| .inr <| encode_case _ none rfl
    | cmdManuf => exact .inr <| .inr <| .inr <| .inr <| encode_case _ none rfl
    | cmdAnalog0 => exact .inr <| .inr <| .inr <| .inr <| encode_case _ (some Config.analogInfo) rfl
    | cmdAnalog1 => exact .inr <| .inr <| .inr <| .inr <| encode_case _ (some Config.analogInfo) rfl

/-- The four things a step can do: wait, reset, refuse a request that decodes to nothing, or run the instruction it decodes to
(30_encoding.md R85, R86; 70_reset_and_hazards.md R231). -/
theorem step_cases (s : State) :
    (s.pending = [] ∧ step s = .next s) ∨
    (∃ es, s.pending = .reset :: es ∧ step s = .next (resetBlock { s with pending := es })) ∨
    (∃ r es e, s.pending = .request r :: es ∧ decode r = .error e ∧
      step s = .next { s with
        pending := es
        out := s.out ++ [.response ⟨if s.fault = true then 0x7#4 else 0x6#4, 0#32, []⟩] }) ∨
    (∃ r es i, s.pending = .request r :: es ∧ decode r = .ok i ∧ step s = exec i { s with pending := es }) := by
  unfold step takeEvent
  cases hp : s.pending with
  | nil => exact .inl ⟨rfl, rfl⟩
  | cons ev es =>
    cases ev with
    | reset => exact .inr (.inl ⟨es, rfl, rfl⟩)
    | request r =>
      cases hd : decode r with
      | error e =>
        refine .inr (.inr (.inl ⟨r, es, e, rfl, hd, ?_⟩))
        rcases Bool.eq_false_or_eq_true s.fault with hf | hf <;>
        simp [answerRequest, hd, refuseRequest, unlessFaulted, State.setPending, raise_eq, ProtocolError.code, hf]
      | ok i => exact .inr (.inr (.inr ⟨r, es, i, rfl, hd, by simp [answerRequest, hd, State.setPending]⟩))

end Sys2Proof.Machine
end

