-- ==== Sys2Proof/Laws/PerInstr.lean ====
section
/-! SUPPORT. One fact about each instruction as syntax: its encoded word fits a row of the table of spec/30_encoding.md R82
that builds the same instruction from it. -/

namespace Sys2Proof.Laws.EncodedWordFitsItsRow

/-- Some row matches the encoded word, and reads the instruction back from the word and its DATA (R82, R84). -/
def Statement (i : Instr) : Prop :=
  ∃ row ∈ requestTable, row.fits (encode i).req = true ∧ row.build (encode i).req (encode i).data = i

/-- The row of the table with a given number, for the lemmas below. -/
theorem of_row {i : Instr} (n : Nat) (row : Row) (hrow : requestTable[n]? = some row)
    (hfit : (encode i).req &&& row.maskBits = row.matchBits)
    (hbuild : row.build (encode i).req (encode i).data = i) : Statement i :=
  ⟨row, List.mem_of_getElem? hrow, by simp [Row.fits, hfit], hbuild⟩

theorem cfgw (addr : Byte) (soiSel lenDbl chkDbl : Bit) : Statement (.cfgw addr soiSel lenDbl chkDbl) := by
  refine of_row 0 _ rfl ?_ ?_
  · apply BitVec.eq_of_getLsbD_eq
    intro i hi
    simp only [encode, BitVec.getLsbD_and, BitVec.getLsbD_or, getLsbD_placeAt]
    interval_cases i <;> simp
  · simp only [encode, Instr.cfgw.injEq]
    refine ⟨?_, ?_, ?_, ?_⟩ <;>
    · apply BitVec.eq_of_getLsbD_eq
      intro i hi
      simp only [BitVec.getLsbD_extractLsb', BitVec.getLsbD_or, getLsbD_placeAt]
      interval_cases i <;> simp

theorem cfgr : Statement .cfgr := of_row 1 _ rfl rfl rfl

theorem enc (cid2 : Byte) : Statement (.enc cid2) := by
  refine of_row 2 _ rfl ?_ ?_
  · apply BitVec.eq_of_getLsbD_eq
    intro i hi
    simp only [encode, BitVec.getLsbD_and, BitVec.getLsbD_or, getLsbD_placeAt]
    interval_cases i <;> simp
  · simp only [encode, Instr.enc.injEq]
    apply BitVec.eq_of_getLsbD_eq
    intro i hi
    simp only [BitVec.getLsbD_extractLsb', BitVec.getLsbD_or, getLsbD_placeAt]
    interval_cases i <;> simp

theorem enci (cid2 : Byte) (info : Half) : Statement (.enci cid2 info) := by
  refine of_row 3 _ rfl ?_ ?_
  · apply BitVec.eq_of_getLsbD_eq
    intro i hi
    simp only [encode, BitVec.getLsbD_and, BitVec.getLsbD_or, getLsbD_placeAt]
    interval_cases i <;> simp
  · simp only [encode, Instr.enci.injEq]
    refine ⟨?_, ?_⟩ <;>
    · apply BitVec.eq_of_getLsbD_eq
      intro i hi
      simp only [BitVec.getLsbD_extractLsb', BitVec.getLsbD_or, getLsbD_placeAt]
      interval_cases i <;> simp

theorem cmdTime : Statement .cmdTime := of_row 4 _ rfl rfl rfl

theorem cmdPver : Statement .cmdPver := of_row 5 _ rfl rfl rfl

theorem cmdDaddr : Statement .cmdDaddr := of_row 6 _ rfl rfl rfl

theorem cmdManuf : Statement .cmdManuf := of_row 7 _ rfl rfl rfl

theorem cmdAnalog0 : Statement .cmdAnalog0 := of_row 8 _ rfl rfl rfl

theorem cmdAnalog1 : Statement .cmdAnalog1 := of_row 9 _ rfl rfl rfl

/-- A word of OP 5, 6 or 7 with a 16-bit operand keeps its upper half under the row's mask. -/
theorem upperHalf (m : BitVec 32) (v : Half) (hm : m &&& 0xFFFF0000#32 = m) :
    (m ||| placeAt v 0) &&& 0xFFFF0000#32 = m := by
  have hlow : placeAt v 0 &&& 0xFFFF0000#32 = 0#32 := by
    apply BitVec.eq_of_getLsbD_eq
    intro i hi
    simp only [BitVec.getLsbD_and, getLsbD_placeAt]
    interval_cases i <;> simp
  rw [BitVec.and_comm, BitVec.and_or_distrib_left, BitVec.and_comm _ m, hm, BitVec.and_comm, hlow]
  simp

theorem lchk (len : Half) : Statement (.lchk len) := by
  refine of_row 10 _ rfl (upperHalf 0x50000000#32 len (by decide)) ?_
  simp only [encode, Instr.lchk.injEq]
  apply BitVec.eq_of_getLsbD_eq
  intro i hi
  simp only [BitVec.getLsbD_extractLsb', BitVec.getLsbD_or, getLsbD_placeAt]
  interval_cases i <;> simp

theorem pchk (data : List Byte) : Statement (.pchk data) :=
  of_row 11 _ rfl (upperHalf 0x60000000#32 _ (by decide)) rfl

theorem rxpush (chunk : List Byte) : Statement (.rxpush chunk) :=
  of_row 12 _ rfl (upperHalf 0x70000000#32 _ (by decide)) rfl

theorem rxpeek : Statement .rxpeek := of_row 13 _ rfl rfl rfl

end Sys2Proof.Laws.EncodedWordFitsItsRow
end

