-- ==== Sys2Proof/Laws/Text.lean ====
section
/-! SUPPORT. Hex text: lengths, ranges and sums of rendered fields (spec/30_encoding.md R60 to R64, R70). -/

namespace Sys2Proof.Machine

/-- Every rendered nibble is a hex character (R60). -/
theorem isHexChar_hexChar : ∀ n : BitVec 4, isHexChar (hexChar n) = true := by decide

/-- A hex character is at least 0x30 and at most 0x46 (R60). -/
theorem isHexChar_bounds {b : Byte} (h : isHexChar b = true) : 0x30 ≤ b.toNat ∧ b.toNat ≤ 0x46 := by
  simp [isHexChar] at h
  omega

@[simp] theorem length_hex2 (b : Byte) : (hex2 b).length = 2 := rfl

@[simp] theorem length_hexN {w : Nat} (v : BitVec w) (k : Nat) : (hexN v k).length = k := by
  induction k with
  | zero => rfl
  | succ k ih => simp [hexN, ih]

@[simp] theorem length_dbl (s : List Byte) : (dbl s).length = 2 * s.length := by
  induction s with
  | nil => rfl
  | cons c cs ih =>
    simp [dbl, ih]
    omega

theorem length_renderMode (s : List Byte) (d : Bit) :
    (renderMode s d).length = if d = 1#1 then 2 * s.length else s.length := by
  unfold renderMode
  split <;> simp

theorem hexN_two (b : Byte) : hexN b 2 = hex2 b := rfl

theorem all_hex2 (b : Byte) : ∀ x ∈ hex2 b, isHexChar x = true := by
  simp [hex2, isHexChar_hexChar]

theorem all_hexN {w : Nat} (v : BitVec w) (k : Nat) : ∀ x ∈ hexN v k, isHexChar x = true := by
  induction k with
  | zero => simp [hexN]
  | succ k ih => simpa [hexN, isHexChar_hexChar] using ih

theorem all_dbl (s : List Byte) : ∀ x ∈ dbl s, isHexChar x = true := by
  induction s with
  | nil => simp [dbl]
  | cons c cs ih =>
    intro x hx
    rcases List.mem_append.mp hx with h | h
    · exact all_hex2 c x h
    · exact ih x h

/-- Rendering hex text under either mode gives hex text (R63). -/
theorem all_renderMode {s : List Byte} (d : Bit) (h : ∀ x ∈ s, isHexChar x = true) :
    ∀ x ∈ renderMode s d, isHexChar x = true := by
  unfold renderMode
  split
  · exact all_dbl s
  · exact h

@[simp] theorem sumBytes_append (a b : List Byte) : sumBytes (a ++ b) = sumBytes a + sumBytes b := by
  induction a with
  | nil => simp [sumBytes]
  | cons x xs ih =>
    simp [sumBytes, ih]
    omega

/-- The sum of a hex text lies between 0x30 and 0x46 times its length (used by 41_encoder.md R131). -/
theorem sumBytes_bounds {s : List Byte} (h : ∀ x ∈ s, isHexChar x = true) :
    0x30 * s.length ≤ sumBytes s ∧ sumBytes s ≤ 0x46 * s.length := by
  induction s with
  | nil => simp [sumBytes]
  | cons x xs ih =>
    have hx := isHexChar_bounds (h x (by simp))
    have hxs := ih (fun y hy => h y (by simp [hy]))
    simp only [sumBytes, List.length_cons]
    omega

/-- A byte sum below 65536 that is not zero has a payload checksum, which is its complement to 65536 (R102). -/
theorem pchkf_of_small {b : List Byte} (h0 : 0 < sumBytes b) (h1 : sumBytes b < 65536) :
    pchkf b = .ok (BitVec.ofNat 16 (65536 - sumBytes b)) := by
  have hne : BitVec.ofNat 16 (sumBytes b) ≠ 0#16 := by
    intro h
    have := congrArg BitVec.toNat h
    simp at this
    omega
  simp only [pchkf, hne, if_false]
  congr 1
  apply BitVec.eq_of_toNat_eq
  rw [← BitVec.neg_eq_not_add]
  simp
  omega

/-- The encoder's INFO field is the field as the spec spells it out, nibble by nibble (R69). -/
theorem infoField_eq_infoShown (info : Option Half) (lenDbl : Bit) : infoField info lenDbl = infoShown info lenDbl := by
  cases info <;> rfl

end Sys2Proof.Machine
end

