-- ==== Sys2Proof/Tests/Slice0.lean ====
section
/-! SUPPORT. The model's own tests: the WellFormed smoke test, one written-out word per constructor, the vectors of
spec/95_test_vectors.md, and a witness for the hypotheses of every statement that has some. Expected results are the spec's,
never the model's own answers. -/

namespace Sys2Proof.Tests

open Sys2Proof Sys2Proof.Machine

/-- The ASCII codes of a text (00_scope.md R8). -/
def ascii (text : String) : List Byte := text.toList.map fun c => BitVec.ofNat 8 c.toNat

/-- The reset state with one request issued. -/
def asked (q : Word) (d : List Byte) : State := { State.reset with pending := [.request ⟨q, d⟩] }

/-- The reset state with these bytes held. -/
def holding (buf : List Byte) : State := { State.reset with rxbuf := buf }

/-- The reset state with FAULT set. -/
def faulted : State := { State.reset with fault := true }

/-- Configuration EX with RX_CAP = 8 (95_test_vectors.md P4). -/
def exCap8 : Params := { Params.ex with rxCap := some 8 }

/-- Configuration EX at PROTO_VER = 0x33 (95_test_vectors.md V8). -/
def ex33 : Params := { Params.ex with protoVer := 0x33#8 }

/-- The responses of a state's output log as (STATUS, VALUE). -/
def answers (s : State) : List (BitVec 4 × Word) := (responses s.out).map fun r => (r.status, r.value)

/-! ### WellFormed -/

theorem test_wellFormed_refuses_long_pchk : (Instr.pchk (List.replicate 65536 0#8)).wellFormed = false := by
  simp only [Instr.wellFormed, dataFits, List.length_replicate]
  decide

theorem test_wellFormed_refuses_long_rxpush : (Instr.rxpush (List.replicate 65536 0#8)).wellFormed = false := by
  simp only [Instr.wellFormed, dataFits, List.length_replicate]
  decide

/-! ### One word per constructor, bit by bit from the layouts of 30_encoding.md R82 -/

theorem test_decode_cfgw :
    decode ⟨0b0001_0000000000000000_0_1_0_1_10100101#32, []⟩ = .ok (.cfgw 0xA5#8 1#1 0#1 1#1) := rfl
theorem test_decode_cfgr : decode ⟨0b0010_0000000000000000000000000000#32, []⟩ = .ok .cfgr := rfl
theorem test_decode_enc : decode ⟨0b0011_0000_01001101_0000000000000000#32, []⟩ = .ok (.enc 0x4D#8) := rfl
theorem test_decode_enci :
    decode ⟨0b0011_0001_01000010_0001001000110100#32, []⟩ = .ok (.enci 0x42#8 0x1234#16) := rfl
theorem test_decode_cmdTime : decode ⟨0b0100_000000000000000000000000_0000#32, []⟩ = .ok .cmdTime := rfl
theorem test_decode_cmdPver : decode ⟨0b0100_000000000000000000000000_0001#32, []⟩ = .ok .cmdPver := rfl
theorem test_decode_cmdDaddr : decode ⟨0b0100_000000000000000000000000_0010#32, []⟩ = .ok .cmdDaddr := rfl
theorem test_decode_cmdManuf : decode ⟨0b0100_000000000000000000000000_0011#32, []⟩ = .ok .cmdManuf := rfl
theorem test_decode_cmdAnalog0 : decode ⟨0b0100_000000000000000000000000_0100#32, []⟩ = .ok .cmdAnalog0 := rfl
theorem test_decode_cmdAnalog1 : decode ⟨0b0100_000000000000000000000000_0101#32, []⟩ = .ok .cmdAnalog1 := rfl
theorem test_decode_lchk : decode ⟨0b0101_000000000000_0001001000110100#32, []⟩ = .ok (.lchk 0x1234#16) := rfl
theorem test_decode_pchk :
    decode ⟨0b0110_000000000000_0000000000000010#32, [0x12#8, 0x34#8]⟩ = .ok (.pchk [0x12#8, 0x34#8]) := rfl
theorem test_decode_rxpush :
    decode ⟨0b0111_000000000000_0000000000000001#32, [0x3E#8]⟩ = .ok (.rxpush [0x3E#8]) := rfl
theorem test_decode_rxpeek : decode ⟨0b1000_0000000000000000000000000000#32, []⟩ = .ok .rxpeek := rfl

/-! Refusals by name (30_encoding.md R86; 95_test_vectors.md P5). -/

theorem test_decode_refuses_reserved_op : decode ⟨0x90000000#32, []⟩ = .error (.reservedOp 0x9#4) := rfl
theorem test_decode_refuses_reserved_selector : decode ⟨0x40000006#32, []⟩ = .error (.reservedSelector 0x6#4) := rfl
theorem test_decode_refuses_enc_with_info_bits : decode ⟨0x304D0001#32, []⟩ = .error (.mustBeZero 0x3#4) := rfl
theorem test_decode_refuses_cfgw_bit11 : decode ⟨0x10000801#32, []⟩ = .error (.mustBeZero 0x1#4) := rfl
theorem test_decode_refuses_data_length :
    decode ⟨0x60000002#32, [0x61#8, 0x62#8, 0x63#8]⟩ = .error (.dataLength "PCHK") := rfl

/-! The host's two fixed functions: the bits above the word are DATA, zero where none is named (log 7). -/

theorem test_decodeTableWord_push : decodeTableWord 32 0x70000002 = some (.rxpush [0#8, 0#8]) := rfl
theorem test_decodeTableWord_data : decodeTableWord 48 0x0D3E60000002 = some (.pchk [0x3E#8, 0x0D#8]) := rfl
theorem test_withFetchWord_runs_next :
    step (State.reset.withFetchWord 32 0x20000000) = exec .cfgr State.reset := rfl

/-! ### Configuration (95_test_vectors.md, control family) -/

theorem test_cfgw_sets_fields :
    step (asked 0x10000102#32 []) =
      .next { State.reset with cfg := 0x00000102#32, out := [.response ⟨0x0#4, 0#32, []⟩] } := rfl

theorem test_cfgr_reads_fields :
    exec .cfgr { State.reset with cfg := 0x000006FF#32 } =
      .next { State.reset with cfg := 0x000006FF#32, out := [.response ⟨0x0#4, 0x000006FF#32, []⟩] } := rfl

theorem test_reset_event :
    step ⟨0x000007FF#32, [0x0D#8, 0x3E#8], true, [.reset], []⟩ = .next State.reset := rfl

/-! ### Checksums (V1, V2, L2) -/

theorem test_lchk_of_18 :
    exec (.lchk 0x012#16) State.reset = .next { State.reset with out := [.response ⟨0x0#4, 0xD#32, []⟩] } := rfl
theorem test_lchk_overflow :
    exec (.lchk 0x1000#16) State.reset = .next { State.reset with out := [.response ⟨0x1#4, 0#32, []⟩] } := rfl
theorem test_pchk_of_vector : pchkf (ascii "20014043E00200") = .ok 0xFD3B#16 := by decide
theorem test_pchk_wraps : pchkf (List.replicate 258 0xFF#8) = .ok 0xFF02#16 := by decide +kernel

/-! ### The encoder and the commands (L2), under EX -/

theorem test_enc_frame :
    encodeFrame Params.ex 0x001#32 0x4D#8 none = .ok (ascii ">2201464D0000FD99" ++ [0x0D#8]) := by decide
theorem test_enc_doubled_chksum :
    encodeFrame Params.ex 0x6FF#32 0x4D#8 none = .ok (ascii ">22FF464D000046443645" ++ [0x0D#8]) := by decide
theorem test_enci_all_modes_and_soi :
    encodeFrame Params.ex 0x701#32 0x42#8 (some 0x00FF#16) =
      .ok (ascii "~22014642453030323030464646423344" ++ [0x0D#8]) := by decide
theorem test_enci_info_order :
    encodeFrame Params.ex 0x001#32 0x42#8 (some 0xABCD#16) = .ok (ascii ">22014642E002ABCDFC8A" ++ [0x0D#8]) := by decide
theorem test_enc_transaction :
    encodeTransaction Params.ex 0x00#8 none State.reset =
      { State.reset with
        out := [.tx (ascii ">220146000000FDB1" ++ [0x0D#8]), .response ⟨0x0#4, 18#32, []⟩] } := by decide

theorem test_cmdTime_frame :
    encodeFrame Params.ex 0x102#32 Params.ex.cid2Time none = .ok (ascii "~2202464D0000FD98" ++ [0x0D#8]) := by decide
theorem test_cmdPver_frame :
    encodeFrame Params.ex 0x001#32 Params.ex.cid2Pver none = .ok (ascii ">2201464F0000FD97" ++ [0x0D#8]) := by decide
theorem test_cmdDaddr_frame :
    encodeFrame Params.ex 0x001#32 Params.ex.cid2Daddr none = .ok (ascii ">220146500000FDAC" ++ [0x0D#8]) := by decide
theorem test_cmdManuf_frame :
    encodeFrame Params.ex 0x6FF#32 Params.ex.cid2Manuf none = .ok (ascii ">22FF4651000046443830" ++ [0x0D#8]) := by decide
theorem test_cmdAnalog0_frame :
    encodeFrame Params.ex 0x001#32 Params.ex.cid2Analog0 (some Config.analogInfo) =
      .ok (ascii ">22014642E00200FFFCA8" ++ [0x0D#8]) := by decide
theorem test_cmdAnalog1_frame :
    encodeFrame Params.ex 0x6FF#32 Params.ex.cid2Analog1 (some Config.analogInfo) =
      .ok (ascii ">22FF4643453030323030464646423131" ++ [0x0D#8]) := by decide

/-! ### The receiver (V3 to V5, V8, L2, P4) -/

theorem test_push_minimal_frame :
    pushChunk Params.ex [0x3E#8, 0x22#8, 0x0D#8] State.reset =
      { State.reset with out := [.rxf [0x3E#8, 0x22#8, 0x0D#8], .response ⟨0x0#4, 1#32, []⟩] } := by decide
theorem test_push_keeps_rejected_bytes :
    pushAll Params.ex [[0x3E#8, 0x99#8, 0x0D#8], [0x3E#8, 0x22#8, 0x0D#8]] State.reset =
      { holding [0x3E#8, 0x99#8, 0x0D#8, 0x3E#8, 0x22#8, 0x0D#8] with
        out := [.response ⟨0x5#4, 0#32, []⟩, .response ⟨0x5#4, 0#32, []⟩] } := by decide
theorem test_push_checks_in_order :
    validate 0x22#8 [0x3E#8, 0x99#8, 0x41#8] = .reject .invalidVersion ∧ validate 0x22#8 [0x41#8, 0x22#8] = .reject .malformed ∧
      validate 0x22#8 [0x3E#8, 0x22#8, 0x41#8] = .reject .malformed := by decide
theorem test_push_capacity :
    pushAll exCap8 [ascii "ABCDE", ascii "FGHI"] State.reset =
      { holding (ascii "ABCDE") with
        fault := true
        out := [.response ⟨0x4#4, 0#32, []⟩, .response ⟨0x7#4, 0#32, []⟩] } := by decide
theorem test_push_exactly_full :
    answers (pushChunk exCap8 [0x3E#8, 0x22#8, 0x41#8, 0x42#8, 0x43#8, 0x44#8, 0x45#8, 0x0D#8] State.reset) =
      [(0x0#4, 1#32)] := by decide
theorem test_peek_copies_buffer :
    exec .rxpeek (holding [0x3E#8, 0x99#8, 0x0D#8]) =
      .next { holding [0x3E#8, 0x99#8, 0x0D#8] with
        out := [.response ⟨0x0#4, 3#32, [0x3E#8, 0x99#8, 0x0D#8]⟩] } := rfl

/-! ### FAULT, illegal requests, the written form -/

theorem test_faulted_illegal_word_gets_capacity_fault :
    step { asked 0xFFFFFFFF#32 [] with fault := true } =
      .next { faulted with out := [.response ⟨0x7#4, 0#32, []⟩] } := rfl
theorem test_illegal_request_changes_nothing :
    step (asked 0x71000003#32 [0x7E#8, 0x22#8, 0x0D#8]) =
      .next { State.reset with out := [.response ⟨0x6#4, 0#32, []⟩] } := rfl

theorem test_assemble_cfgw : assemble "CFGW 0xFF, 0, 1, 1".toList = some (.request ⟨0x100006FF#32, []⟩) := by decide
theorem test_assemble_enci : assemble "ENCI 0x42, 0x1234".toList = some (.request ⟨0x31421234#32, []⟩) := by decide
theorem test_assemble_analog : assemble "CMD.ANALOG 1".toList = some (.request ⟨0x40000005#32, []⟩) := by decide
theorem test_assemble_push :
    assemble "RXPUSH [22 41 42]".toList = some (.request ⟨0x70000003#32, [0x22#8, 0x41#8, 0x42#8]⟩) := by decide
theorem test_assemble_pchk :
    assemble "PCHK \"0000\"".toList = some (.request ⟨0x60000004#32, [0x30#8, 0x30#8, 0x30#8, 0x30#8]⟩) := by decide
theorem test_assemble_word_and_reset :
    assemble ".word 0xFFFFFFFF".toList = some (.request ⟨0xFFFFFFFF#32, []⟩) ∧ assemble "RESET".toList = some .reset := by decide

/-! ### Witnesses: concrete states and operands that meet the hypotheses of the statements -/

/-- The SOI byte, the version of the modelled block and EOI: the shortest frame VALIDATE accepts (R150). -/
def shortFrame : List Byte := [0x3E#8, 0x22#8, 0x0D#8]

/-- An issued RXPUSH of the shortest frame. -/
def pushShort : Request := ⟨0x70000003#32, shortFrame⟩

/-- The frame `ENC 0x4D` makes under EX and its first and second half (41_encoder.md R129). -/
def frame4D : List Byte := ascii ">2201464D0000FD99" ++ [0x0D#8]

/-- The same frame at PROTO_VER = 0x33, its checksum recomputed by hand: the body sum is 0x269. -/
def frame33 : List Byte := ascii ">3301464D0000FD97" ++ [0x0D#8]

/-- A state with eight held bytes, full under exCap8. -/
def full8 : State := holding (List.replicate 8 0x41#8)

/-- A state that has emitted a frame on TX, one on RXF and a response, and holds a rejected byte. -/
def busy : State :=
  ⟨0x000007FF#32, [0x41#8], false, [.request ⟨0x20000000#32, []⟩],
    [.tx frame4D, .rxf shortFrame, .response ⟨0x4#4, 0#32, []⟩]⟩

/-! Encoding. -/

theorem witness_wellFormed_largest_data : (Instr.pchk (List.replicate 65535 0#8)).wellFormed = true := by
  simp only [Instr.wellFormed, dataFits, List.length_replicate]
  decide

theorem witness_wellFormed_each_shape :
    ∀ i ∈ [Instr.cfgw 0xFF#8 1#1 1#1 1#1, .cfgr, .enc 0#8, .enci 0xFF#8 0xFFFF#16, .cmdTime, .lchk 0xFFFF#16, .pchk [],
      .rxpush shortFrame, .rxpeek], i.wellFormed = true := by decide

theorem witness_request_decodes : decode pushShort = .ok (.rxpush shortFrame) := rfl

theorem witness_a_row_matches : ∃ row ∈ requestTable, row.fits 0x31FF0000#32 = true := by decide

/-- Each clause of `IllegalRequest` at words on the edge of its range (R82, R83, R86, R87). -/
theorem witness_illegal_requests :
    ∀ r ∈ [(⟨0x00000000#32, []⟩ : Request), ⟨0x0FFFFFFF#32, []⟩, ⟨0x90000000#32, []⟩, ⟨0xFFFFFFFF#32, []⟩,
      ⟨0x10000800#32, []⟩, ⟨0x18000000#32, []⟩, ⟨0x20000001#32, []⟩, ⟨0x28000000#32, []⟩, ⟨0x32000000#32, []⟩,
      ⟨0x39FFFFFF#32, []⟩, ⟨0x30000001#32, []⟩, ⟨0x30FF8000#32, []⟩, ⟨0x40000006#32, []⟩, ⟨0x4000000F#32, []⟩,
      ⟨0x40000010#32, []⟩, ⟨0x48000000#32, []⟩, ⟨0x50010000#32, []⟩, ⟨0x68000000#32, []⟩, ⟨0x71000003#32, shortFrame⟩,
      ⟨0x80000001#32, []⟩, ⟨0x60000000#32, [0x00#8]⟩, ⟨0x70000003#32, [0x3E#8]⟩, ⟨0x20000000#32, [0x00#8]⟩],
      IllegalRequest r := by
  unfold IllegalRequest
  decide

/-- The last legal word before each of those edges is not illegal. -/
theorem witness_legal_requests :
    ∀ r ∈ [(⟨0x100007FF#32, []⟩ : Request), ⟨0x20000000#32, []⟩, ⟨0x30FF0000#32, []⟩, ⟨0x31FFFFFF#32, []⟩,
      ⟨0x40000005#32, []⟩, ⟨0x5000FFFF#32, []⟩, ⟨0x60000000#32, []⟩, ⟨0x70000003#32, shortFrame⟩, ⟨0x80000000#32, []⟩],
      ¬ IllegalRequest r := by
  unfold IllegalRequest
  decide

theorem witness_illegal_request_pending :
    (asked 0x40000006#32 []).pending = .request ⟨0x40000006#32, []⟩ :: [] ∧ (asked 0x40000006#32 []).fault = false ∧
      IllegalRequest ⟨0x40000006#32, []⟩ := by
  unfold IllegalRequest
  decide

/-! The step, reset and FAULT. -/

theorem witness_issued_request_decodes :
    (asked 0x304D0000#32 []).pending = .request ⟨0x304D0000#32, []⟩ :: [] ∧
      decode ⟨0x304D0000#32, []⟩ = .ok (.enc 0x4D#8) := ⟨rfl, rfl⟩

theorem witness_reset_pending :
    ({ busy with pending := [.reset, .request pushShort] } : State).pending = .reset :: [.request pushShort] := rfl

theorem witness_nothing_pending : State.reset.pending = [] := rfl

/-- R32, first clause: one byte more than fits. -/
theorem witness_over_capacity :
    full8.fault = false ∧ exCap8.rxCap = some 8 ∧ 8 < full8.rxbuf.length + [0x0D#8].length := by decide

theorem witness_faulted_request :
    ({ asked 0xFFFFFFFF#32 [] with fault := true } : State).pending = .request ⟨0xFFFFFFFF#32, []⟩ :: [] ∧
      ({ asked 0xFFFFFFFF#32 [] with fault := true } : State).fault = true := ⟨rfl, rfl⟩

theorem witness_reset_clears_fault :
    step { faulted with pending := [.reset] } = .next State.reset ∧ faulted.fault = true ∧ State.reset.fault = false :=
  ⟨rfl, rfl, rfl⟩

/-- R81, the clause on errors and the clause on DATA: a response that is an error, and one that carries DATA. -/
theorem witness_error_and_data_responses :
    step (asked 0x50001000#32 []) = .next { State.reset with out := [] ++ [] ++ [.response ⟨0x1#4, 0#32, []⟩] } ∧
      step { asked 0x80000000#32 [] with rxbuf := [0x41#8] } =
        .next { holding [0x41#8] with out := [] ++ [] ++ [.response ⟨0x0#4, 1#32, [0x41#8]⟩] } := ⟨rfl, rfl⟩

/-- R212, first row: a rejected push keeps its chunk; two bytes are below the least length, three with a wrong version are
not. -/
theorem witness_rejecting_pushes :
    (pushChunk Config.params [0x3E#8, 0x22#8] State.reset).out = [] ++ [] ++ [.response ⟨0x4#4, 0#32, []⟩] ∧
      (pushChunk Config.params [0x3E#8, 0x99#8, 0x0D#8] State.reset).out = [] ++ [] ++ [.response ⟨0x5#4, 0#32, []⟩] := by
  have h2 : fitsCapacity Config.params 2 = true := fitsCapacity_small (by decide)
  have h3 : fitsCapacity Config.params 3 = true := fitsCapacity_small (by decide)
  constructor
  · rw [show pushChunk Config.params [0x3E#8, 0x22#8] State.reset =
        if fitsCapacity Config.params 2 then { holding [0x3E#8, 0x22#8] with out := [.response ⟨0x4#4, 0#32, []⟩] }
        else capacityOverflow State.reset from rfl, h2]
    rfl
  · rw [show pushChunk Config.params [0x3E#8, 0x99#8, 0x0D#8] State.reset =
        if fitsCapacity Config.params 3 then
          { holding [0x3E#8, 0x99#8, 0x0D#8] with out := [.response ⟨0x5#4, 0#32, []⟩] }
        else capacityOverflow State.reset from rfl, h3]
    rfl

theorem witness_pushes_are_steps :
    step (asked 0x70000002#32 [0x3E#8, 0x22#8]) = .next (pushChunk Config.params [0x3E#8, 0x22#8] State.reset) ∧
      step (asked 0x70000003#32 [0x3E#8, 0x99#8, 0x0D#8]) =
        .next (pushChunk Config.params [0x3E#8, 0x99#8, 0x0D#8] State.reset) := ⟨rfl, rfl⟩

/-- R212, second row: whenever RX_CAP is finite, some state and request meet it. -/
theorem witness_capacity_fault_row (cap : Nat) (h : Config.params.rxCap = some cap) :
    (pushChunk Config.params [0x00#8] (holding (List.replicate cap 0x41#8))).out =
      [] ++ [] ++ [.response ⟨0x7#4, 0#32, []⟩] := by
  have hf : fitsCapacity Config.params ((holding (List.replicate cap 0x41#8)).rxbuf.length + [0x00#8].length) = false := by
    unfold fitsCapacity
    rw [h]
    simp [holding]
  unfold pushChunk unlessFaulted
  rw [hf]
  rfl

/-- R212, last row: CAPACITY_FAULT with FAULT = 1 before, and an error of another kind. -/
theorem witness_other_errors :
    step { asked 0x20000000#32 [] with fault := true } =
        .next { faulted with out := [] ++ [] ++ [.response ⟨0x7#4, 0#32, []⟩] } ∧
      step (asked 0x60000000#32 []) = .next { State.reset with out := [] ++ [] ++ [.response ⟨0x3#4, 0#32, []⟩] } :=
  ⟨rfl, rfl⟩

/-! The invariant and the bounds. -/

/-- A state with output of each kind meets the invariant, and it steps. -/
theorem witness_invariant : busy.Inv ∧ ∃ t, step busy = .next t := by
  refine ⟨⟨(by decide : cfgReserved busy.cfg = 0#21), fitsCapacity_small (by decide),
    (by decide : validate Config.params.protoVer busy.rxbuf ≠ .accept), ?_⟩, ⟨_, rfl⟩⟩
  intro o ho
  simp only [busy, List.mem_cons, List.not_mem_nil, or_false] at ho
  rcases ho with rfl | rfl | rfl
  · exact ⟨0x3E#8, ascii "2201464D0000FD99", by decide, by decide, by decide, by decide⟩
  · exact (by decide : 3 ≤ shortFrame.length ∧ shortFrame[0]?.any isSoi = true ∧
      shortFrame[1]? = some Config.params.protoVer ∧ shortFrame.getLast? = some Config.eoi)
  · exact (by decide : (0x4#4).toNat < 8 ∧ (0x4#4 ≠ 0#4 → 0#32 = 0#32 ∧ ([] : List Byte) = []))

/-- R30, each clause: a buffer that exactly fits, one byte too many, no bound. -/
theorem witness_capacity_clauses :
    fitsCapacity exCap8 full8.rxbuf.length = true ∧ (full8.fault = false ∧ 8 < full8.rxbuf.length + [0x0D#8].length) ∧
      Params.ex.rxCap = none ∧ busy.rxbuf.length = 1 := by decide

theorem witness_within_capacity : busy.WithinCapacity ∧ ∃ t, step busy = .next t :=
  ⟨fitsCapacity_small (by decide), ⟨_, rfl⟩⟩

theorem witness_cfg_changes :
    step (asked 0x10000102#32 []) = .next { State.reset with cfg := 0x00000102#32, out := [.response ⟨0x0#4, 0#32, []⟩] } ∧
      (0x00000102#32 ≠ State.reset.cfg) ∧ step { busy with pending := [.reset] } =
        .next { busy with cfg := 0x00000001#32, rxbuf := [], pending := [] } := ⟨rfl, by decide, rfl⟩

/-- RXBUF is changed by a push that is kept and by one that delivers. -/
theorem witness_rxbuf_changes :
    (pushChunk Config.params [0x41#8] State.reset).rxbuf = [0x41#8] ∧
      (pushChunk Config.params [0x0D#8] (holding [0x3E#8, 0x22#8])).rxbuf = [] := by
  have h1 : fitsCapacity Config.params 1 = true := fitsCapacity_small (by decide)
  have h3 : fitsCapacity Config.params 3 = true := fitsCapacity_small (by decide)
  constructor
  · rw [show pushChunk Config.params [0x41#8] State.reset =
        if fitsCapacity Config.params 1 then { holding [0x41#8] with out := [.response ⟨0x4#4, 0#32, []⟩] }
        else capacityOverflow State.reset from rfl, h1]
    rfl
  · rw [show pushChunk Config.params [0x0D#8] (holding [0x3E#8, 0x22#8]) =
        if fitsCapacity Config.params 3 then
          { State.reset with out := [.rxf [0x3E#8, 0x22#8, 0x0D#8], .response ⟨0x0#4, 1#32, []⟩] }
        else capacityOverflow (holding [0x3E#8, 0x22#8]) from rfl, h3]
    rfl

theorem witness_fault_clear : busy.fault = false ∧ busy.ReservedZero := by
  unfold State.ReservedZero
  decide

/-! Checksums. -/

theorem witness_equal_nibble_sums :
    ((0x0F1#12).extractLsb' 8 4).toNat + ((0x0F1#12).extractLsb' 4 4).toNat + ((0x0F1#12).extractLsb' 0 4).toNat =
      ((0x880#12).extractLsb' 8 4).toNat + ((0x880#12).extractLsb' 4 4).toNat + ((0x880#12).extractLsb' 0 4).toNat := by
  decide

theorem witness_lchk_at_the_bound : (0x0FFF#16).toNat ≤ 0xFFF ∧ ¬ (0x1000#16).toNat ≤ 0xFFF := by decide

theorem witness_pchk_zero_and_nonzero : sumBytes [0x00#8] % 65536 = 0 ∧ sumBytes [0x01#8] % 65536 ≠ 0 := by decide

theorem witness_pchkf_outcomes :
    pchkf [0x01#8] = .ok 0xFFFF#16 ∧ pchkf [] = .error .zeroChecksum ∧ [0x01#8, 0x02#8].Perm [0x02#8, 0x01#8] :=
  ⟨rfl, rfl, List.Perm.swap _ _ _⟩

/-! The encoder. -/

theorem witness_digit_ranges : (0x9#4).toNat ≤ 9 ∧ 10 ≤ (0xA#4).toNat := by decide

theorem witness_encode_answers : ∃ (t : State) (emitted : List Output) (resp : Response),
    exec (.enc 0x4D#8) State.reset = .next t ∧ t.out = State.reset.out ++ emitted ++ [.response resp] := by
  have h : exec (.enc 0x4D#8) State.reset =
      .next (completeEncode (encodeFrame Config.params State.reset.cfg 0x4D#8 none) State.reset) := by
    simp [exec, execEnc, encodeTransaction, unlessFaulted, State.reset]
  have hout : ∀ r, ∃ emitted resp, (completeEncode r State.reset).out = State.reset.out ++ emitted ++ [.response resp]
    | .error _ => ⟨[], _, rfl⟩
    | .ok f => ⟨[.tx f], _, rfl⟩
  obtain ⟨emitted, resp, ho⟩ := hout (encodeFrame Config.params State.reset.cfg 0x4D#8 none)
  exact ⟨_, emitted, resp, h, ho⟩

theorem witness_frame_encodes : encodeFrame Params.ex 0x00000001#32 0x4D#8 none = .ok frame4D := by decide

theorem witness_doubled_frame_encodes :
    encodeFrame Params.ex 0x701#32 0x42#8 (some 0x00FF#16) =
      .ok (ascii "~22014642453030323030464646423344" ++ [0x0D#8]) := by decide

/-- LenDblDoublesLengthAndInfo's last clause, raw (INFO 0xABCD, whose nibbles all differ) and doubled. -/
theorem witness_len_dbl_both_ways :
    (encodeFrame Params.ex 0x001#32 0x42#8 (some 0xABCD#16) = .ok (ascii ">22014642E002ABCDFC8A" ++ [0x0D#8]) ∧
        (0x001#32).extractLsb' 9 1 = 0#1) ∧
      (encodeFrame Params.ex 0x701#32 0x42#8 (some 0x00FF#16) =
          .ok (ascii "~22014642453030323030464646423344" ++ [0x0D#8]) ∧ (0x701#32).extractLsb' 9 1 = 1#1) := by decide

theorem witness_inner_byte : 0 < 1 ∧ 1 + 1 < frame4D.length ∧ frame4D[1]? = some 0x32#8 := by decide

/-- Two configurations that differ in CHK_DBL alone, and two that differ in LEN_DBL alone. -/
theorem witness_doubling_pairs :
    (cfgAddr 0x001#32 = cfgAddr 0x401#32 ∧ cfgSoiSel 0x001#32 = cfgSoiSel 0x401#32 ∧
        cfgLenDbl 0x001#32 = cfgLenDbl 0x401#32 ∧ (0x001#32).extractLsb' 10 1 = 0#1 ∧ (0x401#32).extractLsb' 10 1 = 1#1 ∧
        encodeFrame Params.ex 0x001#32 0x4D#8 none = .ok frame4D ∧
        encodeFrame Params.ex 0x401#32 0x4D#8 none = .ok (ascii ">2201464D000046443939" ++ [0x0D#8])) ∧
      (cfgAddr 0x001#32 = cfgAddr 0x201#32 ∧ cfgSoiSel 0x001#32 = cfgSoiSel 0x201#32 ∧
        cfgChkDbl 0x001#32 = cfgChkDbl 0x201#32 ∧ (0x001#32).extractLsb' 9 1 = 0#1 ∧ (0x201#32).extractLsb' 9 1 = 1#1) := by decide

theorem witness_encoder_failures :
    0xFFF < (0x1000#16).toNat ∧ [0x00#8] ≠ [] ∧ sumBytes [0x00#8] % 65536 = 0 := by decide

/-- R133, at 0x33 and at 0x22: a frame, its chunks, a last chunk that is not empty, and room for it. -/
theorem witness_encoded_frames :
    (encodeFrame ex33 0x00000001#32 0x4D#8 none = .ok frame33 ∧ ex33.protoVer = 0x33#8 ∧
        [frame33.take 9, [], frame33.drop 9].flatten = frame33 ∧ fitsCapacity ex33 frame33.length = true) ∧
      (encodeFrame Params.ex 0x00000001#32 0x4D#8 none = .ok frame4D ∧ Params.ex.protoVer = 0x22#8 ∧
        [frame4D.take 9].flatten ++ frame4D.drop 9 = frame4D ∧ frame4D.drop 9 ≠ [] ∧
        fitsCapacity Params.ex frame4D.length = true) ∧
      State.reset.fault = false ∧ State.reset.rxbuf = [] := by decide

/-! The receiver. -/

theorem witness_validate_reads_four_things :
    [0x3E#8, 0x22#8].length < 3 ∧
      ([0x3E#8, 0x22#8, 0x41#8, 0x0D#8].length = [0x3E#8, 0x22#8, 0x99#8, 0x0D#8].length ∧
        [0x3E#8, 0x22#8, 0x41#8, 0x0D#8][0]? = [0x3E#8, 0x22#8, 0x99#8, 0x0D#8][0]? ∧
        [0x3E#8, 0x22#8, 0x41#8, 0x0D#8][1]? = [0x3E#8, 0x22#8, 0x99#8, 0x0D#8][1]? ∧
        [0x3E#8, 0x22#8, 0x41#8, 0x0D#8].getLast? = [0x3E#8, 0x22#8, 0x99#8, 0x0D#8].getLast?) := by decide

theorem witness_deliverable :
    (holding [0x3E#8, 0x22#8]).fault = false ∧
      fitsCapacity Config.params ((holding [0x3E#8, 0x22#8]).rxbuf.length + [0x0D#8].length) = true ∧
      validate Config.params.protoVer ((holding [0x3E#8, 0x22#8]).rxbuf ++ [0x0D#8]) = .accept :=
  ⟨rfl, fitsCapacity_small (by decide), by decide⟩

theorem witness_rejected_both_ways :
    fitsCapacity Config.params ((holding [0x3E#8]).rxbuf.length + [0x99#8, 0x0D#8].length) = true ∧
      (holding [0x3E#8]).rxbuf ++ [0x99#8, 0x0D#8] ≠ [] ∧
      validate Config.params.protoVer ((holding [0x3E#8]).rxbuf ++ [0x99#8, 0x0D#8]) = .reject .invalidVersion ∧
      validate Config.params.protoVer ((holding [0x3E#8]).rxbuf ++ []) = .reject .malformed :=
  ⟨fitsCapacity_small (by decide), by decide, by decide, by decide⟩

theorem witness_idle : State.reset.fault = false ∧ State.reset.rxbuf = [] := ⟨rfl, rfl⟩

theorem witness_delivery_changes_rxf :
    ∃ t, exec (.rxpush [0x0D#8]) (holding [0x3E#8, 0x22#8]) = .next t ∧
      rxfFrames t.out ≠ rxfFrames (holding [0x3E#8, 0x22#8]).out := by
  refine ⟨_, rfl, ?_⟩
  have h3 : fitsCapacity Config.params 3 = true := fitsCapacity_small (by decide)
  rw [show pushChunk Config.params [0x0D#8] (holding [0x3E#8, 0x22#8]) =
      if fitsCapacity Config.params 3 then
        { State.reset with out := [.rxf [0x3E#8, 0x22#8, 0x0D#8], .response ⟨0x0#4, 1#32, []⟩] }
      else capacityOverflow (holding [0x3E#8, 0x22#8]) from rfl, h3]
  decide

theorem witness_receiver_answers :
    (∃ t, exec (.rxpush [0x41#8]) State.reset = .next t) ∧ ∃ t, exec .rxpeek busy = .next t := ⟨⟨_, rfl⟩, ⟨_, rfl⟩⟩

theorem witness_no_receiver_instruction :
    Instr.cfgr ≠ .rxpeek ∧ (∀ c, Instr.cfgr ≠ .rxpush c) ∧ ∃ t, exec .cfgr busy = .next t :=
  ⟨by decide, (fun _ => nofun), ⟨_, rfl⟩⟩

/-- R158: case (a), and case (b) at length 2 and at length 3, each with room for the push. -/
theorem witness_stuck_buffers :
    Stuck Params.ex.protoVer (holding [0x41#8]).rxbuf ∧ Stuck Params.ex.protoVer (holding [0x3E#8, 0x99#8]).rxbuf ∧
      ((holding [0x3E#8, 0x99#8]).rxbuf ++ []).length = 2 ∧ ((holding [0x3E#8, 0x99#8]).rxbuf ++ [0x0D#8]).length = 3 ∧
      fitsCapacity Params.ex 3 = true ∧ (holding [0x41#8]).fault = false :=
  ⟨.inl ⟨_, _, rfl, by decide⟩, .inr ⟨_, _, _, rfl, by decide, by decide⟩, rfl, rfl, rfl, rfl⟩

/-- A run over a stuck buffer without a reset in it, and one event after it that is a reset. -/
theorem witness_stuck_run :
    let s : State := { holding [0x41#8] with pending := [.request ⟨0x20000000#32, []⟩, .request pushShort, .reset] }
    Stuck Config.params.protoVer s.rxbuf ∧ Event.reset ∉ s.pending.take 2 ∧ ∃ t, Sys2Proof.core.run 2 s = .next t :=
  ⟨.inl ⟨_, _, rfl, by decide⟩, by decide, ⟨_, rfl⟩⟩

theorem witness_reset_then_push :
    ({ busy with pending := [.reset, .request pushShort] } : State).pending = .reset :: .request pushShort :: [] ∧
      decode pushShort = .ok (.rxpush shortFrame) ∧ validate Config.params.protoVer shortFrame = .accept ∧
      fitsCapacity Config.params shortFrame.length = true :=
  ⟨rfl, rfl, by decide, fitsCapacity_small (by decide)⟩

/-- R159 (a): a frame of four bytes with no inner EOI, three chunks of which one is empty, and two early answers. -/
theorem witness_chunks :
    let g : List Byte := [0x7E#8, 0x22#8, 0x41#8, 0x0D#8]
    validate Params.ex.protoVer g = .accept ∧ (∀ k, 2 ≤ k → k + 1 < g.length → g[k]? ≠ some 0x0D#8) ∧
      [[0x7E#8, 0x22#8], []].flatten ++ [0x41#8, 0x0D#8] = g ∧ [0x41#8, 0x0D#8] ≠ ([] : List Byte) ∧
      State.reset.fault = false ∧ State.reset.rxbuf = [] ∧ fitsCapacity Params.ex g.length = true := by
  refine ⟨by decide, ?_, by decide, by decide, rfl, rfl, rfl⟩
  intro k hk hlt
  have : k = 2 := by
    simp only [List.length_cons, List.length_nil] at hlt
    omega
  subst this
  decide

theorem witness_two_frames :
    validate Params.ex.protoVer shortFrame = .accept ∧ validate Params.ex.protoVer [0x7E#8, 0x22#8, 0x41#8, 0x0D#8] = .accept ∧
      fitsCapacity Params.ex (shortFrame.length + 4) = true ∧ State.reset.fault = false ∧ State.reset.rxbuf = [] := by decide

/-! Whole-machine rules. -/

theorem witness_repeatable :
    (∀ a b c d, Instr.cmdTime ≠ .cfgw a b c d) ∧ (∀ c, Instr.cmdTime ≠ .rxpush c) ∧
      (∃ t u, exec (.cfgw 0x02#8 1#1 0#1 0#1) State.reset = .next t ∧ exec (.cfgw 0x02#8 1#1 0#1 0#1) t = .next u) :=
  ⟨(fun _ _ _ _ => nofun), (fun _ => nofun), ⟨_, _, rfl, rfl⟩⟩

end Sys2Proof.Tests
end

section
/-! The parameters of the modelled block meet the spec's constraints (spec/00_scope.md R4 and the RX_CAP row of section 3). -/

namespace Sys2Proof

/-- The constraints on the parameters as propositions: R4 for the analog codes, and the bound on a finite RX_CAP. -/
theorem Params.wf_iff (p : Params) :
    p.wf = true ↔
      (p.cid2Analog0.toNat + 1 = p.cid2Analog1.toNat ∨ p.cid2Analog1.toNat + 1 = p.cid2Analog0.toNat) ∧
        ∀ cap, p.rxCap = some cap → 3 ≤ cap := by
  unfold Params.wf
  cases p.rxCap <;> simp

namespace Config

/-- Adding 0 or 1 to the smaller analog code never wraps around, since that code is at most 0xFE (R4). -/
theorem analogLow_add_toNat (larger : Bool) :
    (BitVec.ofNat 8 (cid2AnalogLow.val + larger.toNat)).toNat = cid2AnalogLow.val + larger.toNat := by
  have hlow := cid2AnalogLow.isLt
  have hbit := larger.toNat_le
  rw [BitVec.toNat_ofNat]
  exact Nat.mod_eq_of_lt (by omega)

theorem cid2Analog0_toNat : cid2Analog0.toNat = cid2AnalogLow.val + cid2Analog0IsLarger.toNat :=
  analogLow_add_toNat _

theorem cid2Analog1_toNat : cid2Analog1.toNat = cid2AnalogLow.val + (!cid2Analog0IsLarger).toNat :=
  analogLow_add_toNat _

/-- R4: the two analog codes are adjacent, whichever of them is the larger. -/
theorem cid2Analog_adjacent :
    cid2Analog0.toNat + 1 = cid2Analog1.toNat ∨ cid2Analog1.toNat + 1 = cid2Analog0.toNat := by
  rw [cid2Analog0_toNat, cid2Analog1_toNat]
  cases cid2Analog0IsLarger with
  | false => exact .inl rfl
  | true => exact .inr rfl

/-- A finite RX_CAP is at least 3 (section 3, the RX_CAP row). -/
theorem three_le_of_rxCap_eq_some {cap : Nat} (h : rxCap = some cap) : 3 ≤ cap := by
  obtain ⟨above, -, rfl⟩ := Option.map_eq_some_iff.mp h
  exact Nat.le_add_left 3 above

end Config

/-- Settles O17, from R4's adjacency of the analog codes and the bound on a finite RX_CAP, for any values of the open
constants. -/
theorem parametersMeetTheirConstraints : Obligations.ParametersMeetTheirConstraints :=
  (Params.wf_iff Config.params).mpr
    ⟨Config.cid2Analog_adjacent, fun _ => Config.three_le_of_rxCap_eq_some⟩

end Sys2Proof
end

section
/-! What the encoder builds, said once: the field sequence of a frame and the text of each field (spec/30_encoding.md R65 to
R72, spec/41_encoder.md R121 to R126, spec/10_state.md R24 to R27). -/

namespace Sys2Proof.Machine

/-- The encoder's LENGTH field is the field as the spec spells it out, and the length check of step 3 never fails (R68,
R124). -/
theorem lengthField_eq_lengthShown (info : Option Half) (lenDbl : Bit) :
    lengthField info lenDbl = .ok (lengthShown info lenDbl) := by
  cases info with
  | none => rfl
  | some v =>
    have hboth : ∀ d : Bit, lengthText Config.infoLenId d = .ok (lengthShown (some 0#16) d) := by decide
    exact hboth lenDbl

/-- The doubled form of a text is the doubled forms of its parts in order (R62). -/
theorem dbl_append (a b : List Byte) : dbl (a ++ b) = dbl a ++ dbl b := by
  induction a with
  | nil => rfl
  | cons c cs ih => simp [dbl, ih]

/-- The LENGTH field is hex text in either mode (R68). -/
theorem all_lengthShown (info : Option Half) (lenDbl : Bit) : ∀ x ∈ lengthShown info lenDbl, isHexChar x = true := by
  cases info with
  | none => exact (by decide : ∀ x ∈ lengthAbsent, isHexChar x = true)
  | some v =>
    have hboth : ∀ d : Bit, ∀ x ∈ lengthShown (some 0#16) d, isHexChar x = true := by decide
    exact hboth lenDbl

/-- The INFO field is hex text in either mode (R69). -/
theorem all_infoShown (info : Option Half) (lenDbl : Bit) : ∀ x ∈ infoShown info lenDbl, isHexChar x = true := by
  cases info with
  | none => simp [infoShown]
  | some v => exact all_renderMode (s := hexN v 4) lenDbl (all_hexN v 4)

/-- The CHKSUM field is hex text in either mode (R70). -/
theorem all_checksumText (c : Half) (chkDbl : Bit) : ∀ x ∈ checksumText c chkDbl, isHexChar x = true := by
  refine all_renderMode chkDbl fun x hx => ?_
  rcases List.mem_append.mp hx with hhigh | hlow
  · exact all_hex2 _ x hhigh
  · exact all_hex2 _ x hlow

/-- The CHKSUM field has 4 characters, or 8 when doubled (R70). -/
theorem length_checksumText (c : Half) (chkDbl : Bit) :
    (checksumText c chkDbl).length = if chkDbl = 1#1 then 8 else 4 := by
  simp [checksumText, length_renderMode]

/-- The doubled CHKSUM field is the doubled form of the raw one (10_state.md R27). -/
theorem checksumText_one_eq_dbl (c : Half) : checksumText c 1#1 = dbl (checksumText c 0#1) := rfl

/-- Every byte of a frame's body is a hex character (R131). -/
theorem all_frameBody (p : Params) (cfg : Word) (cid2 : Byte) (info : Option Half) :
    ∀ x ∈ frameBody p cfg cid2 info, isHexChar x = true := by
  intro x hx
  simp only [frameBody, List.mem_append] at hx
  rcases hx with ((((hver | haddr) | hcid1) | hcid2) | hlen) | hinfo
  · exact all_hex2 _ x hver
  · exact all_hex2 _ x haddr
  · exact all_hex2 _ x hcid1
  · exact all_hex2 _ x hcid2
  · exact all_lengthShown _ _ x hlen
  · exact all_infoShown _ _ x hinfo

/-- The body has 12 bytes without INFO, and with it 16 raw or 24 doubled (R131). -/
theorem length_frameBody (p : Params) (cfg : Word) (cid2 : Byte) (info : Option Half) :
    (frameBody p cfg cid2 info).length ∈ [12, 16, 24] := by
  cases info with
  | none => simp [frameBody, lengthShown, infoShown]
  | some v =>
    by_cases hd : cfg.extractLsb' 9 1 = 1#1 <;> simp [frameBody, lengthShown, infoShown, hd]

/-- A body sum is positive and far below 65536, so that its checksum exists (R131). -/
theorem sumBytes_frameBody_bounds (p : Params) (cfg : Word) (cid2 : Byte) (info : Option Half) :
    576 ≤ sumBytes (frameBody p cfg cid2 info) ∧ sumBytes (frameBody p cfg cid2 info) ≤ 1680 := by
  obtain ⟨hlow, hhigh⟩ := sumBytes_bounds (all_frameBody p cfg cid2 info)
  have hlen := length_frameBody p cfg cid2 info
  simp only [List.mem_cons, List.not_mem_nil, or_false] at hlen
  omega

/-- The checksum the encoder puts behind a body: 65536 less the body sum (R102, R126). -/
def frameChecksum (p : Params) (cfg : Word) (cid2 : Byte) (info : Option Half) : Half :=
  BitVec.ofNat 16 (65536 - sumBytes (frameBody p cfg cid2 info))

/-- Step 5 on the body of a frame never fails (R126, R131). -/
theorem checksumField_frameBody (p : Params) (cfg : Word) (cid2 : Byte) (info : Option Half) (chkDbl : Bit) :
    checksumField (frameBody p cfg cid2 info) chkDbl = .ok (checksumText (frameChecksum p cfg cid2 info) chkDbl) := by
  obtain ⟨hlow, hhigh⟩ := sumBytes_frameBody_bounds p cfg cid2 info
  have hne : frameBody p cfg cid2 info ≠ [] := List.cons_ne_nil _ _
  have hchk : pchkf (frameBody p cfg cid2 info) = .ok (frameChecksum p cfg cid2 info) :=
    pchkf_of_small (by omega) (by omega)
  simp [checksumField, hne, hchk]

/-- ENCODE never fails and builds SOI, the body, the checksum of the body and EOI (R65, R121, R131). -/
theorem encodeFrame_eq (p : Params) (cfg : Word) (cid2 : Byte) (info : Option Half) :
    encodeFrame p cfg cid2 info =
      .ok ([soiByte (cfgSoiSel cfg)] ++ frameBody p cfg cid2 info ++
        checksumText (frameChecksum p cfg cid2 info) (cfgChkDbl cfg) ++ [Config.eoi]) := by
  have hfront : [soiByte (cfgSoiSel cfg)] ++ headerField p cfg cid2 ++ lengthShown info (cfgLenDbl cfg) ++
      infoField info (cfgLenDbl cfg) = [soiByte (cfgSoiSel cfg)] ++ frameBody p cfg cid2 info := by
    rw [infoField_eq_infoShown]
    rfl
  have hbody : ([soiByte (cfgSoiSel cfg)] ++ frameBody p cfg cid2 info).drop 1 = frameBody p cfg cid2 info := rfl
  simp only [encodeFrame, lengthField_eq_lengthShown, hfront, hbody, checksumField_frameBody]

/-- The frame of a successful ENCODE, field by field. -/
theorem eq_of_encodeFrame_ok {p : Params} {cfg : Word} {cid2 : Byte} {info : Option Half} {f : List Byte}
    (h : encodeFrame p cfg cid2 info = .ok f) :
    f = [soiByte (cfgSoiSel cfg)] ++ frameBody p cfg cid2 info ++
      checksumText (frameChecksum p cfg cid2 info) (cfgChkDbl cfg) ++ [Config.eoi] := by
  rw [encodeFrame_eq] at h
  exact (Except.ok.inj h).symm

/-- Behind SOI and the eight header bytes stand LENGTH, INFO, CHKSUM and EOI (R72). -/
theorem drop_nine_of_encodeFrame_ok {p : Params} {cfg : Word} {cid2 : Byte} {info : Option Half} {f : List Byte}
    (h : encodeFrame p cfg cid2 info = .ok f) :
    f.drop 9 = lengthShown info (cfgLenDbl cfg) ++ infoShown info (cfgLenDbl cfg) ++
      (checksumText (frameChecksum p cfg cid2 info) (cfgChkDbl cfg) ++ [Config.eoi]) := by
  rw [eq_of_encodeFrame_ok h, ← List.append_assoc]
  rfl

/-- The body reads two fields of CFG, ADDR and LEN_DBL (10_state.md R24, R26). -/
theorem frameBody_congr {cfg cfg' : Word} (haddr : cfgAddr cfg = cfgAddr cfg') (hlen : cfgLenDbl cfg = cfgLenDbl cfg')
    (p : Params) (cid2 : Byte) (info : Option Half) : frameBody p cfg cid2 info = frameBody p cfg' cid2 info := by
  unfold cfgAddr at haddr
  unfold cfgLenDbl at hlen
  simp only [frameBody, haddr, hlen]

/-- Without INFO the body reads ADDR alone (10_state.md R26). -/
theorem frameBody_none_congr {cfg cfg' : Word} (haddr : cfgAddr cfg = cfgAddr cfg') (p : Params) (cid2 : Byte) :
    frameBody p cfg cid2 none = frameBody p cfg' cid2 none := by
  unfold cfgAddr at haddr
  simp only [frameBody, haddr, lengthShown, infoShown]

/-- Equal bodies have equal checksums. -/
theorem frameChecksum_congr {p : Params} {cfg cfg' : Word} {cid2 : Byte} {info : Option Half}
    (hbody : frameBody p cfg cid2 info = frameBody p cfg' cid2 info) :
    frameChecksum p cfg cid2 info = frameChecksum p cfg' cid2 info := by
  simp only [frameChecksum, hbody]

/-- With INFO the LENGTH and INFO fields together are the raw eight characters, or their doubled form (10_state.md R26). -/
theorem lengthShown_append_infoShown_some (v : Half) (lenDbl : Bit) :
    lengthShown (some v) lenDbl ++ infoShown (some v) lenDbl =
      renderMode ([0x45#8, 0x30#8, 0x30#8, 0x32#8] ++ [hexChar (v.extractLsb' 12 4), hexChar (v.extractLsb' 8 4),
        hexChar (v.extractLsb' 4 4), hexChar (v.extractLsb' 0 4)]) lenDbl := by
  by_cases hd : lenDbl = 1#1
  · simp only [renderMode, dbl_append, lengthShown, infoShown, if_pos hd]
    rfl
  · simp only [renderMode, lengthShown, infoShown, if_neg hd]

/-- Both values of CFG.SOI_SEL select a SOI value (10_state.md R25). -/
theorem isSoi_soiByte : ∀ soiSel : Bit, isSoi (soiByte soiSel) = true := by decide

end Sys2Proof.Machine
end

section
/-! CFG.CHK_DBL and CFG.LEN_DBL (spec/10_state.md R26, R27). -/

namespace Sys2Proof.Machine

/-- Settles O35: both frames are read off `encodeFrame_eq`, and their bodies and checksums are equal. -/
theorem chkDblDoublesOnlyTheChksumField : Obligations.ChkDblDoublesOnlyTheChksumField := by
  refine ⟨by decide, ?_⟩
  intro p cfg cfg' cid2 info f f' haddr hsoi hlen hraw hdbl hf hf'
  have hbody := frameBody_congr haddr hlen p cid2 info
  refine ⟨[soiByte (cfgSoiSel cfg)] ++ frameBody p cfg cid2 info, checksumText (frameChecksum p cfg cid2 info) 0#1,
    by simp [length_checksumText], ?_, ?_⟩
  · rw [eq_of_encodeFrame_ok hf, show cfgChkDbl cfg = 0#1 from hraw]
    rfl
  · rw [eq_of_encodeFrame_ok hf', show cfgChkDbl cfg' = 1#1 from hdbl, ← hsoi, ← hbody, ← frameChecksum_congr hbody,
      checksumText_one_eq_dbl]
    rfl

/-- Settles O36: without INFO the body does not read LEN_DBL; with INFO the two fields behind the header are one text under
the mode LEN_DBL selects. -/
theorem lenDblDoublesLengthAndInfo : Obligations.LenDblDoublesLengthAndInfo := by
  refine ⟨by decide, ?_, ?_, ?_⟩
  · intro p cfg cfg' cid2 haddr hsoi hchk
    have hbody := frameBody_none_congr haddr p cid2
    rw [encodeFrame_eq, encodeFrame_eq, hsoi, hchk, hbody, frameChecksum_congr hbody]
  · intro p cfg cid2 f hf
    rw [drop_nine_of_encodeFrame_ok hf]
    rfl
  · intro p cfg cid2 v f hf shown
    have hshown : f.drop 9 = renderMode shown (cfgLenDbl cfg) ++
        (checksumText (frameChecksum p cfg cid2 (some v)) (cfgChkDbl cfg) ++ [Config.eoi]) := by
      rw [drop_nine_of_encodeFrame_ok hf, lengthShown_append_infoShown_some]
    refine ⟨fun hraw => ?_, fun hdbl => ?_⟩
    · rw [hshown, show cfgLenDbl cfg = 0#1 from hraw]
      exact List.take_left' rfl
    · rw [hshown, show cfgLenDbl cfg = 1#1 from hdbl]
      exact List.take_left' rfl

end Sys2Proof.Machine
end

section
/-! What a transaction does to each register, as the inversion lemmas of exec and step tell it (spec/10_state.md R23, R29, R30,
R32). -/

namespace Sys2Proof.Machine

/-- A buffer longer than a finite RX_CAP does not fit (R30). -/
theorem fitsCapacity_eq_false_of_lt {p : Params} {cap n : Nat} (hcap : p.rxCap = some cap) (hlt : cap < n) :
    fitsCapacity p n = false := by
  simp [fitsCapacity, hcap, hlt]

/-- An unbounded buffer holds any number of bytes (R30). -/
theorem fitsCapacity_of_unbounded {p : Params} (hcap : p.rxCap = none) (n : Nat) : fitsCapacity p n = true := by
  simp [fitsCapacity, hcap]

/-- An RXPUSH that does not fit sets FAULT, answers CAPACITY_FAULT and changes nothing else (42_receiver.md R152). -/
theorem pushChunk_of_overflow {p : Params} {c : List Byte} {s : State} (hclear : s.fault = false)
    (hover : fitsCapacity p (s.rxbuf.length + c.length) = false) :
    pushChunk p c s = { s with fault := true, out := s.out ++ [.response ⟨0x7#4, 0#32, []⟩] } := by
  simp [pushChunk, hclear, hover, capacityOverflow_eq]

/-- No RXPUSH writes CFG (10_state.md R23). -/
@[simp] theorem pushChunk_cfg (p : Params) (c : List Byte) (s : State) : (pushChunk p c s).cfg = s.cfg := by
  rcases pushChunk_cases p c s with ⟨-, h⟩ | ⟨-, -, h⟩ | ⟨-, -, -, -, h⟩ | ⟨-, -, -, e, -, h⟩ | ⟨-, -, -, h⟩ <;> rw [h]

/-- An RXPUSH leaves RXBUF, appends a chunk that fits and delivers nothing, or delivers the whole buffer and clears it
(10_state.md R29). -/
theorem pushChunk_rxbuf_cases (p : Params) (c : List Byte) (s : State) :
    (pushChunk p c s).rxbuf = s.rxbuf ∨
      (fitsCapacity p (s.rxbuf ++ c).length = true ∧ (pushChunk p c s).rxbuf = s.rxbuf ++ c ∧
        rxfFrames (pushChunk p c s).out = rxfFrames s.out) ∨
      ((pushChunk p c s).rxbuf = [] ∧ rxfFrames (pushChunk p c s).out = rxfFrames s.out ++ [s.rxbuf ++ c]) := by
  rcases pushChunk_cases p c s with
    ⟨-, h⟩ | ⟨-, -, h⟩ | ⟨-, -, -, -, h⟩ | ⟨-, hfit, -, e, -, h⟩ | ⟨-, -, -, h⟩
  case inl => exact .inl (by rw [h])
  case inr.inl => exact .inl (by rw [h])
  case inr.inr.inl => exact .inl (by rw [h])
  case inr.inr.inr.inl => exact .inr (.inl ⟨by rwa [List.length_append], by rw [h], by simp [h]⟩)
  case inr.inr.inr.inr => exact .inr (.inr ⟨by rw [h], by simp [h]⟩)

/-- An RXPUSH keeps RXBUF within RX_CAP (R30). -/
theorem pushChunk_fitsCapacity {p : Params} (c : List Byte) {s : State} (hfit : fitsCapacity p s.rxbuf.length = true) :
    fitsCapacity p (pushChunk p c s).rxbuf.length = true := by
  rcases pushChunk_rxbuf_cases p c s with h | ⟨hsum, h, -⟩ | ⟨h, -⟩
  · rwa [h]
  · rwa [h]
  · rw [h]
    exact fitsCapacity_zero p

/-- With FAULT = 1 every instruction is answered with CAPACITY_FAULT and writes nothing (R32). -/
theorem exec_of_fault (i : Instr) {s : State} (hfault : s.fault = true) :
    exec i s = .next { s with out := s.out ++ [.response ⟨0x7#4, 0#32, []⟩] } := by
  rcases exec_cases i s with ⟨-, h⟩ | ⟨hclear, -⟩ | ⟨hclear, -⟩ | ⟨hclear, -⟩ | ⟨hclear, -⟩ | ⟨hclear, -⟩
  · exact h
  all_goals simp [hfault] at hclear

/-- An instruction that changes CFG is a CFGW (R23). -/
theorem exec_cfg_eq_or_cfgw {i : Instr} {s t : State} (hexec : exec i s = .next t) :
    t.cfg = s.cfg ∨ ∃ a b c d, i = .cfgw a b c d := by
  rcases exec_cases i s with ⟨-, h⟩ | ⟨-, a, b, c, d, hi, -⟩ | ⟨-, c, -, h⟩ | ⟨-, v, d, -, h⟩ | ⟨-, e, -, h⟩ |
    ⟨-, cid2, info, f, -, h⟩
  case inr.inl => exact .inr ⟨a, b, c, d, hi⟩
  case inr.inr.inl =>
    obtain rfl := Host.Outcome.next.inj (h.symm.trans hexec)
    exact .inl (pushChunk_cfg _ _ _)
  all_goals
    obtain rfl := Host.Outcome.next.inj (h.symm.trans hexec)
    exact .inl rfl

/-- An instruction that changes RXBUF is an RXPUSH with FAULT = 0 (R29, R32). -/
theorem exec_rxbuf_eq_or_push {i : Instr} {s t : State} (hexec : exec i s = .next t) :
    t.rxbuf = s.rxbuf ∨ (s.fault = false ∧ ∃ c, i = .rxpush c ∧ t = pushChunk Config.params c s) := by
  rcases exec_cases i s with ⟨-, h⟩ | ⟨-, a, b, c, d, -, h⟩ | ⟨hclear, c, hi, h⟩ | ⟨-, v, d, -, h⟩ | ⟨-, e, -, h⟩ |
    ⟨-, cid2, info, f, -, h⟩
  case inr.inr.inl => exact .inr ⟨hclear, c, hi, Host.Outcome.next.inj (hexec.symm.trans h)⟩
  all_goals
    obtain rfl := Host.Outcome.next.inj (h.symm.trans hexec)
    exact .inl rfl

/-- A step leaves RXBUF, is a reset that empties it, or is an RXPUSH with FAULT = 0 (R29). -/
theorem step_rxbuf_cases {s t : State} (hstep : step s = .next t) :
    t.rxbuf = s.rxbuf ∨ (∃ es, s.pending = .reset :: es ∧ t.rxbuf = []) ∨
      (∃ r es c, s.pending = .request r :: es ∧ decode r = .ok (.rxpush c) ∧ s.fault = false ∧
        t = pushChunk Config.params c { s with pending := es }) := by
  rcases step_cases s with ⟨-, h⟩ | ⟨es, hp, h⟩ | ⟨r, es, e, -, -, h⟩ | ⟨r, es, i, hp, hd, h⟩
  case inr.inr.inr =>
    rcases exec_rxbuf_eq_or_push (h.symm.trans hstep) with hsame | ⟨hclear, c, rfl, ht⟩
    · exact .inl hsame
    · exact .inr (.inr ⟨r, es, c, hp, hd, hclear, ht⟩)
  all_goals obtain rfl := Host.Outcome.next.inj (h.symm.trans hstep)
  case inl => exact .inl rfl
  case inr.inl => exact .inr (.inl ⟨es, hp, rfl⟩)
  case inr.inr.inl => exact .inl rfl

/-- With FAULT = 1 every request, whatever its word, is answered with CAPACITY_FAULT and writes nothing (R32). -/
theorem step_request_of_fault {s : State} {r : Request} {es : List Event} (hp : s.pending = .request r :: es)
    (hfault : s.fault = true) :
    step s = .next { s with pending := es, out := s.out ++ [.response ⟨0x7#4, 0#32, []⟩] } := by
  rcases step_cases s with ⟨hp', -⟩ | ⟨es', hp', -⟩ | ⟨r', es', e, hp', -, h⟩ | ⟨r', es', i, hp', -, h⟩
  case inl => simp [hp] at hp'
  case inr.inl => simp [hp] at hp'
  all_goals
    obtain ⟨-, rfl⟩ : r = r' ∧ es = es' := by simpa [hp] using hp'
    rw [h]
  case inr.inr.inl => rw [if_pos hfault]
  case inr.inr.inr => exact exec_of_fault i hfault

/-- A step that clears FAULT takes a reset (R32). -/
theorem reset_pending_of_fault_cleared {s t : State} (hfault : s.fault = true) (hstep : step s = .next t)
    (hclear : t.fault = false) : ∃ es, s.pending = .reset :: es := by
  rcases step_cases s with ⟨-, h⟩ | ⟨es, hp, -⟩ | ⟨r, es, e, hp, -, -⟩ | ⟨r, es, i, hp, -, -⟩
  case inl =>
    obtain rfl := Host.Outcome.next.inj (h.symm.trans hstep)
    exact absurd hclear (by simp [hfault])
  case inr.inl => exact ⟨es, hp⟩
  all_goals
    obtain rfl := Host.Outcome.next.inj ((step_request_of_fault hp hfault).symm.trans hstep)
    exact absurd hclear (by simp [hfault])

/-- Settles O11: overflow is `pushChunk_of_overflow`, and a faulted block answers by `step_request_of_fault` and
`exec_of_fault`. -/
theorem faultIsStickyAndAnswersEverything : Obligations.FaultIsStickyAndAnswersEverything := by
  refine ⟨?_, fun s r es => step_request_of_fault, fun i s => exec_of_fault i,
    fun s t => reset_pending_of_fault_cleared⟩
  intro p cap c s hclear hcap hlt
  rw [pushChunk_of_overflow hclear (fitsCapacity_eq_false_of_lt hcap hlt)]

/-- A step keeps RXBUF within the modelled block's RX_CAP (R30). -/
theorem step_withinCapacity {s t : State} (hfit : s.WithinCapacity) (hstep : step s = .next t) : t.WithinCapacity := by
  unfold State.WithinCapacity at *
  rcases step_rxbuf_cases hstep with h | ⟨es, -, h⟩ | ⟨r, es, c, -, -, -, rfl⟩
  · rwa [h]
  · rw [h]
    exact fitsCapacity_zero Config.params
  · exact pushChunk_fitsCapacity c hfit

/-- Settles O20: a push appends only what fits, and no other step lengthens RXBUF. -/
theorem receiveBufferStaysWithinCapacity : Obligations.ReceiveBufferStaysWithinCapacity := by
  refine ⟨fun p c s => pushChunk_fitsCapacity c, ?_, fun p n hcap => fitsCapacity_of_unbounded hcap n,
    fun s t => step_withinCapacity⟩
  intro p cap c s hclear hcap hlt
  rw [pushChunk_of_overflow hclear (fitsCapacity_eq_false_of_lt hcap hlt)]
  exact ⟨rfl, rfl⟩

/-- Settles O21, by the cases of a step. -/
theorem onlyCfgwAndResetWriteCfg : Obligations.OnlyCfgwAndResetWriteCfg := by
  intro s t hstep hne
  rcases step_cases s with ⟨-, h⟩ | ⟨es, hp, -⟩ | ⟨r, es, e, -, -, h⟩ | ⟨r, es, i, hp, hd, h⟩
  case inr.inl => exact .inl ⟨es, hp⟩
  case inr.inr.inr =>
    rcases exec_cfg_eq_or_cfgw (h.symm.trans hstep) with hsame | ⟨a, b, c, d, rfl⟩
    · exact absurd hsame hne
    · exact .inr ⟨r, es, a, b, c, d, hp, hd⟩
  all_goals
    obtain rfl := Host.Outcome.next.inj (h.symm.trans hstep)
    exact absurd rfl hne

/-- Settles O22: a step that changes RXBUF is a reset or a push, and a push appends or delivers. -/
theorem onlyPushDeliveryAndResetChangeRxbuf : Obligations.OnlyPushDeliveryAndResetChangeRxbuf := by
  intro s t hstep hne
  rcases step_rxbuf_cases hstep with h | hreset | ⟨r, es, c, hp, hd, hclear, rfl⟩
  · exact absurd h hne
  · exact .inl hreset
  · rcases pushChunk_rxbuf_cases Config.params c { s with pending := es } with h | ⟨-, happend⟩ | hdeliver
    · exact absurd h hne
    · exact .inr ⟨r, es, c, hp, hd, hclear, .inl happend⟩
    · exact .inr ⟨r, es, c, hp, hd, hclear, .inr hdeliver⟩

end Sys2Proof.Machine
end

section
/-! The invariant: what the encoder, the receiver and the responses put out is legal, and every step keeps it (spec/10_state.md
R28, R30, R31; spec/30_encoding.md R73; spec/42_receiver.md R160; spec/60_exceptions.md R203). -/

namespace Sys2Proof.Machine

/-- Every frame of a successful ENCODE is SOI, hex text and EOI, of one of the five lengths (R73, R88). -/
theorem legalTxFrame_of_encodeFrame_ok {p : Params} {cfg : Word} {cid2 : Byte} {info : Option Half} {f : List Byte}
    (h : encodeFrame p cfg cid2 info = .ok f) : LegalTxFrame f := by
  have hf := eq_of_encodeFrame_ok h
  have hbody := length_frameBody p cfg cid2 info
  have hchk := length_checksumText (frameChecksum p cfg cid2 info) (cfgChkDbl cfg)
  refine ⟨soiByte (cfgSoiSel cfg),
    frameBody p cfg cid2 info ++ checksumText (frameChecksum p cfg cid2 info) (cfgChkDbl cfg),
    by simpa using hf, isSoi_soiByte _, ?_, ?_⟩
  · intro b hb
    rcases List.mem_append.mp hb with hin | hin
    · exact all_frameBody p cfg cid2 info b hin
    · exact all_checksumText _ _ b hin
  · have hlen : f.length = 2 + (frameBody p cfg cid2 info).length +
        (checksumText (frameChecksum p cfg cid2 info) (cfgChkDbl cfg)).length := by
      rw [hf]
      simp only [List.length_append, List.length_singleton]
      omega
    rw [hlen, hchk]
    simp only [List.mem_cons, List.not_mem_nil, or_false] at hbody ⊢
    split <;> omega

/-- VALIDATE accepts exactly the buffers that R160 promises of delivered frames (R150). -/
theorem validate_eq_accept_iff (v : Byte) (buf : List Byte) : validate v buf = .accept ↔ LegalRxfFrame v buf := by
  unfold validate LegalRxfFrame
  by_cases hlen : buf.length < 3
  · simp [hlen]
  · by_cases hsoi : buf[0]?.any isSoi = true
    · by_cases hver : buf[1]? = some v
      · by_cases heoi : buf.getLast? = some Config.eoi <;> simp [hlen, hsoi, hver, heoi, Nat.le_of_not_lt hlen]
      · simp [hlen, hsoi, hver]
    · simp [hlen, hsoi]

/-- VALIDATE rejects the empty buffer (R150). -/
theorem validate_nil (v : Byte) : validate v [] = .reject .malformed := rfl

/-- No error of the block has a transport code (R203). -/
theorem ProtocolError.code_lt_eight (e : ProtocolError) : e.code.toNat < 8 := by
  cases e <;> decide

/-- An error's response is legal: VALUE is 0 and there is no data (R200, R203). -/
theorem legalResponse_error (e : ProtocolError) : LegalResponse ⟨e.code, 0#32, []⟩ :=
  ⟨e.code_lt_eight, fun _ => ⟨rfl, rfl⟩⟩

/-- A response with status OK is legal whatever it carries. -/
theorem legalResponse_ok (v : Word) (d : List Byte) : LegalResponse ⟨0x0#4, v, d⟩ :=
  ⟨by simp, fun h => absurd rfl h⟩

/-- What keeps the invariant: the registers meet it, and what is added to the output is legal. -/
theorem State.Inv.of_append {s t : State} {new : List Output} (hinv : s.Inv) (hcfg : t.ReservedZero)
    (hcap : t.WithinCapacity) (hacc : t.Accumulating) (hout : t.out = s.out ++ new) (hnew : ∀ o ∈ new, LegalOutput o) :
    t.Inv := by
  refine ⟨hcfg, hcap, hacc, ?_⟩
  intro o ho
  rw [hout] at ho
  rcases List.mem_append.mp ho with hold | hin
  · exact hinv.legalOut o hold
  · exact hnew o hin

/-- Legal output and new events keep the invariant when no register changes. -/
theorem State.Inv.emitting {s : State} (hinv : s.Inv) (fault : Bool) (pending : List Event) {new : List Output}
    (hnew : ∀ o ∈ new, LegalOutput o) :
    State.Inv { s with fault := fault, pending := pending, out := s.out ++ new } :=
  hinv.of_append hinv.reservedZero hinv.withinCapacity hinv.accumulating rfl hnew

/-- A response alone is legal output when it is a legal response. -/
theorem legalOutput_response {r : Response} (h : LegalResponse r) : ∀ o ∈ [Output.response r], LegalOutput o := by
  intro o ho
  rw [List.mem_singleton.mp ho]
  exact h

/-- A reset keeps the invariant: the reset values meet it and nothing is emitted (70_reset_and_hazards.md R230, R231). -/
theorem resetBlock_keeps_inv {s : State} (hinv : s.Inv) : (resetBlock s).Inv :=
  hinv.of_append (new := []) cfgReserved_reset (fitsCapacity_zero Config.params) (by simp [State.Accumulating, validate_nil])
    (by simp) (by simp)

/-- An RXPUSH keeps the invariant: a kept buffer fits and was rejected, and a delivered one was accepted (R30, R31, R160). -/
theorem pushChunk_keeps_inv {s : State} (hinv : s.Inv) (c : List Byte) : (pushChunk Config.params c s).Inv := by
  rcases pushChunk_cases Config.params c s with
    ⟨-, h⟩ | ⟨-, -, h⟩ | ⟨-, -, -, -, h⟩ | ⟨-, hfit, -, e, hv, h⟩ | ⟨-, -, hv, h⟩
  all_goals rw [h]
  case inl => exact hinv.emitting _ _ (legalOutput_response (legalResponse_error .capacityFault))
  case inr.inl => exact hinv.emitting _ _ (legalOutput_response (legalResponse_error .capacityFault))
  case inr.inr.inl => exact hinv.emitting _ _ (legalOutput_response (legalResponse_ok _ _))
  case inr.inr.inr.inl =>
    refine hinv.of_append hinv.reservedZero ?_ ?_ rfl (legalOutput_response (legalResponse_error e))
    · simpa [State.WithinCapacity] using hfit
    · simp [State.Accumulating, hv]
  case inr.inr.inr.inr =>
    refine hinv.of_append (new := [.rxf (s.rxbuf ++ c), .response ⟨0x0#4, 1#32, []⟩]) hinv.reservedZero
      (fitsCapacity_zero Config.params) (by simp [State.Accumulating, validate_nil]) (by simp) ?_
    intro o ho
    rcases List.mem_cons.mp ho with rfl | hresp
    · exact (validate_eq_accept_iff _ _).mp hv
    · exact legalOutput_response (legalResponse_ok _ _) o hresp

/-- Every instruction keeps the invariant. -/
theorem exec_keeps_inv {s t : State} (hinv : s.Inv) {i : Instr} (hexec : exec i s = .next t) : t.Inv := by
  rcases exec_cases i s with ⟨-, h⟩ | ⟨-, a, b, c, d, -, h⟩ | ⟨-, c, -, h⟩ | ⟨-, v, d, -, h⟩ | ⟨-, e, -, h⟩ |
    ⟨-, cid2, info, f, hf, h⟩
  all_goals obtain rfl := Host.Outcome.next.inj (h.symm.trans hexec)
  case inl => exact hinv.emitting _ _ (legalOutput_response (legalResponse_error .capacityFault))
  case inr.inl =>
    have hcfg : cfgReserved (cfgWithFields s.cfg a b c d) = 0#21 := by
      rw [cfgReserved_withFields]
      exact hinv.reservedZero
    exact hinv.of_append hcfg hinv.withinCapacity hinv.accumulating rfl (legalOutput_response (legalResponse_ok _ _))
  case inr.inr.inl => exact pushChunk_keeps_inv hinv c
  case inr.inr.inr.inl => exact hinv.emitting _ _ (legalOutput_response (legalResponse_ok _ _))
  case inr.inr.inr.inr.inl => exact hinv.emitting _ _ (legalOutput_response (legalResponse_error e))
  case inr.inr.inr.inr.inr =>
    refine hinv.emitting _ _ ?_
    intro o ho
    rcases List.mem_cons.mp ho with rfl | hresp
    · exact legalTxFrame_of_encodeFrame_ok hf
    · exact legalOutput_response (legalResponse_ok _ _) o hresp

/-- The invariant does not depend on the events still issued. -/
theorem State.Inv.withPending {s : State} (hinv : s.Inv) (es : List Event) : State.Inv { s with pending := es } :=
  ⟨hinv.reservedZero, hinv.withinCapacity, hinv.accumulating, hinv.legalOut⟩

/-- Settles O19, by the cases of a step: the waiting, the reset, the refusal and the instruction each keep the invariant. -/
theorem everyStepKeepsTheInvariant : Obligations.EveryStepKeepsTheInvariant := by
  intro s t hinv hstep
  rcases step_cases s with ⟨-, h⟩ | ⟨es, -, h⟩ | ⟨r, es, e, -, -, h⟩ | ⟨r, es, i, -, -, h⟩
  case inr.inr.inr => exact exec_keeps_inv (hinv.withPending es) (h.symm.trans hstep)
  all_goals obtain rfl := Host.Outcome.next.inj (h.symm.trans hstep)
  case inl => exact hinv
  case inr.inl => exact resetBlock_keeps_inv (hinv.withPending es)
  case inr.inr.inl =>
    refine hinv.emitting _ _ (legalOutput_response ?_)
    split
    · exact legalResponse_error .capacityFault
    · exact legalResponse_error .illegalRequest

end Sys2Proof.Machine
end

section
/-! What repeating a transaction does: every meaning but CFGW and RXPUSH only emits, from the registers alone; CFGW is idempotent
and RXPUSH is not (spec/20_memory.md R47, spec/10_state.md R22). -/

namespace Sys2Proof.Machine

/-- The transaction only appends to the output log, and what it appends depends on CFG, RXBUF and FAULT alone (R22, R47). -/
def EmitsFromRegisters (f : State → State) : Prop :=
  ∃ emitted : Word → List Byte → Bool → List Output,
    ∀ s, f s = { s with out := s.out ++ emitted s.cfg s.rxbuf s.fault }

/-- What completing an encode emits is fixed by the encode's result, so it can be read off a completion with an empty log
(41_encoder.md R128). -/
theorem completeEncode_eq (r : Except ProtocolError (List Byte)) (s : State) :
    completeEncode r s = { s with out := s.out ++ (completeEncode r State.reset).out } := by
  rcases completeEncode_cases r s with ⟨e, rfl, h⟩ | ⟨f, rfl, h⟩
  · exact h
  · rw [h, List.append_assoc]
    rfl

namespace EmitsFromRegisters

/-- A response whose VALUE and DATA are read from CFG and RXBUF. -/
theorem of_respond (c : Status) (value : Word → List Byte → Word) (data : Word → List Byte → List Byte) :
    EmitsFromRegisters fun s => respond c (value s.cfg s.rxbuf) (data s.cfg s.rxbuf) s :=
  ⟨fun cfg rxbuf _ => [.response ⟨c.code, value cfg rxbuf, data cfg rxbuf⟩], fun _ => rfl⟩

theorem of_raise (e : ProtocolError) : EmitsFromRegisters (raise e) :=
  ⟨fun _ _ _ => [.response ⟨e.code, 0#32, []⟩], fun _ => rfl⟩

/-- The capacity fault's answer to a faulted block is read from FAULT (10_state.md R32). -/
theorem unlessFaulted {f : State → State} (hf : EmitsFromRegisters f) :
    EmitsFromRegisters fun s => unlessFaulted s (f s) := by
  obtain ⟨emitted, hemit⟩ := hf
  refine ⟨fun cfg rxbuf fault => if fault then [.response ⟨0x7#4, 0#32, []⟩] else emitted cfg rxbuf fault, fun s => ?_⟩
  cases hfault : s.fault with
  | true => simp [hfault]
  | false => simp [hfault, hemit s]

/-- An encode reads the parameters, its operands and CFG (41_encoder.md R120, R128). -/
theorem of_encodeTransaction (p : Params) (cid2 : Byte) (info : Option Half) :
    EmitsFromRegisters (encodeTransaction p cid2 info) :=
  unlessFaulted (f := fun s => completeEncode (encodeFrame p s.cfg cid2 info) s)
    ⟨fun cfg _ _ => (completeEncode (encodeFrame p cfg cid2 info) State.reset).out, fun _ => completeEncode_eq _ _⟩

/-- Two states with equal registers get the same new output. -/
theorem exists_new {f : State → State} (hf : EmitsFromRegisters f) (s : State) :
    ∃ new : List Output, ∀ s' : State, s'.cfg = s.cfg → s'.rxbuf = s.rxbuf → s'.fault = s.fault →
      f s' = { s' with out := s'.out ++ new } := by
  obtain ⟨emitted, hemit⟩ := hf
  refine ⟨emitted s.cfg s.rxbuf s.fault, fun s' hcfg hrxbuf hfault => ?_⟩
  rw [hemit s', hcfg, hrxbuf, hfault]

end EmitsFromRegisters

/-- Every instruction but CFGW and RXPUSH only emits, and from the registers alone (R47). -/
theorem exec_emitsFromRegisters {i : Instr} (hcfgw : ∀ a b c d, i ≠ .cfgw a b c d) (hpush : ∀ c, i ≠ .rxpush c) :
    ∃ f, EmitsFromRegisters f ∧ ∀ s, exec i s = .next (f s) := by
  have encodes : ∀ cid2 info, (∀ s, exec i s = .next (encodeTransaction Config.params cid2 info s)) →
      ∃ f, EmitsFromRegisters f ∧ ∀ s, exec i s = .next (f s) :=
    fun cid2 info h => ⟨_, .of_encodeTransaction Config.params cid2 info, h⟩
  have answers : ∀ v : Word, EmitsFromRegisters (respond .ok v []) :=
    fun v => .of_respond .ok (fun _ _ => v) fun _ _ => []
  cases i with
  | cfgw a b c d => exact absurd rfl (hcfgw a b c d)
  | rxpush c => exact absurd rfl (hpush c)
  | cfgr => exact ⟨_, .unlessFaulted (.of_respond .ok (fun cfg _ => cfgRead cfg) fun _ _ => []), fun _ => rfl⟩
  | rxpeek =>
    exact ⟨_, .unlessFaulted (.of_respond .ok (fun _ buf => BitVec.ofNat 32 buf.length) fun _ buf => buf), fun _ => rfl⟩
  | lchk len =>
    cases hl : lengthChecksum len with
    | error e => exact ⟨_, .unlessFaulted (.of_raise e), fun s => by simp only [exec, execLchk, hl]⟩
    | ok c => exact ⟨_, .unlessFaulted (answers (c.setWidth 32)), fun s => by simp only [exec, execLchk, hl]⟩
  | pchk data =>
    cases hp : pchkf data with
    | error e => exact ⟨_, .unlessFaulted (.of_raise e), fun s => by simp only [exec, execPchk, hp]⟩
    | ok c => exact ⟨_, .unlessFaulted (answers (c.setWidth 32)), fun s => by simp only [exec, execPchk, hp]⟩
  | enc cid2 => exact encodes cid2 none fun _ => rfl
  | enci cid2 info => exact encodes cid2 (some info) fun _ => rfl
  | cmdTime => exact encodes _ none fun _ => rfl
  | cmdPver => exact encodes _ none fun _ => rfl
  | cmdDaddr => exact encodes _ none fun _ => rfl
  | cmdManuf => exact encodes _ none fun _ => rfl
  | cmdAnalog0 => exact encodes _ (some Config.analogInfo) fun _ => rfl
  | cmdAnalog1 => exact encodes _ (some Config.analogInfo) fun _ => rfl

/-- A second write of the four fields overwrites the first, since the reserved bits stand (44_control.md R190; log 6). -/
@[simp] theorem cfgWithFields_withFields (cfg : Word) (a a' : Byte) (s s' l l' c c' : Bit) :
    cfgWithFields (cfgWithFields cfg a' s' l' c') a s l c = cfgWithFields cfg a s l c := by
  rw [cfgWithFields, cfgReserved_withFields, ← cfgWithFields]

/-- With FAULT = 0, CFGW writes the four fields and answers OK (44_control.md R190). -/
theorem exec_cfgw_of_clear (a : Byte) (b c d : Bit) {s : State} (hclear : s.fault = false) :
    exec (.cfgw a b c d) s =
      .next { s with cfg := cfgWithFields s.cfg a b c d, out := s.out ++ [.response ⟨0x0#4, 0#32, []⟩] } :=
  congrArg Host.Outcome.next (unlessFaulted_of_clear _ hclear)

/-- CFGW on the registers: RXBUF and FAULT stand, and CFG takes the four fields unless the block is faulted (R23, R32). -/
theorem exec_cfgw_registers {a : Byte} {b c d : Bit} {s t : State} (hexec : exec (.cfgw a b c d) s = .next t) :
    t.cfg = (if s.fault then s.cfg else cfgWithFields s.cfg a b c d) ∧ t.rxbuf = s.rxbuf ∧ t.fault = s.fault := by
  cases hfault : s.fault with
  | true =>
    obtain rfl := Host.Outcome.next.inj ((exec_of_fault _ hfault).symm.trans hexec)
    exact ⟨rfl, rfl, hfault⟩
  | false =>
    obtain rfl := Host.Outcome.next.inj ((exec_cfgw_of_clear a b c d hfault).symm.trans hexec)
    exact ⟨rfl, rfl, hfault⟩

/-- CFGW is idempotent: a faulted block ignores both, and a clear one takes the same fields twice (R47). -/
theorem exec_cfgw_twice {a : Byte} {b c d : Bit} {s t u : State} (ht : exec (.cfgw a b c d) s = .next t)
    (hu : exec (.cfgw a b c d) t = .next u) : u.cfg = t.cfg ∧ u.rxbuf = t.rxbuf ∧ u.fault = t.fault := by
  obtain ⟨htcfg, -, htfault⟩ := exec_cfgw_registers ht
  obtain ⟨hucfg, hurxbuf, hufault⟩ := exec_cfgw_registers hu
  refine ⟨?_, hurxbuf, hufault⟩
  rw [hucfg, htfault, htcfg]
  cases s.fault with
  | true => rfl
  | false => exact cfgWithFields_withFields ..

/-- With FAULT = 0, an RXPUSH that fits and completes a frame delivers it (42_receiver.md R156). -/
theorem pushChunk_of_accept {p : Params} {c : List Byte} {s : State} (hclear : s.fault = false)
    (hfit : fitsCapacity p (s.rxbuf.length + c.length) = true) (hv : validate p.protoVer (s.rxbuf ++ c) = .accept) :
    pushChunk p c s =
      { s with rxbuf := [], out := s.out ++ [.rxf (s.rxbuf ++ c)] ++ [.response ⟨0x0#4, 1#32, []⟩] } := by
  rcases pushChunk_cases p c s with ⟨h, -⟩ | ⟨-, h, -⟩ | ⟨-, -, hbuf, hc, -⟩ | ⟨-, -, -, e, h, -⟩ | ⟨-, -, -, h⟩
  case inl => simp [hclear] at h
  case inr.inl => simp [hfit] at h
  case inr.inr.inl => simp [hbuf, hc, validate_nil] at hv
  case inr.inr.inr.inl => simp [hv] at h
  case inr.inr.inr.inr => exact h

/-- With FAULT = 0, an RXPUSH that fits and leaves a rejected buffer that is not empty keeps it and answers the verdict
(42_receiver.md R154). -/
theorem pushChunk_of_reject {p : Params} {c : List Byte} {s : State} {e : ProtocolError} (hclear : s.fault = false)
    (hfit : fitsCapacity p (s.rxbuf.length + c.length) = true) (hne : s.rxbuf ++ c ≠ [])
    (hv : validate p.protoVer (s.rxbuf ++ c) = .reject e) :
    pushChunk p c s = { s with rxbuf := s.rxbuf ++ c, out := s.out ++ [.response ⟨e.code, 0#32, []⟩] } := by
  rcases pushChunk_cases p c s with ⟨h, -⟩ | ⟨-, h, -⟩ | ⟨-, -, hbuf, hc, -⟩ | ⟨-, -, -, e', h, hpush⟩ | ⟨-, -, h, -⟩
  case inl => simp [hclear] at h
  case inr.inl => simp [hfit] at h
  case inr.inr.inl => simp [hbuf, hc] at hne
  case inr.inr.inr.inl =>
    obtain rfl : e' = e := by simpa [hv] using h.symm
    exact hpush
  case inr.inr.inr.inr => simp [hv] at h

/-- A block that holds SOI and the version, one EOI short of the shortest frame. -/
def lackingEoi : State := { State.reset with rxbuf := [Config.soiA, Config.protoVer] }

/-- RXPUSH of EOI completes the held frame. -/
theorem push_eoi_delivers :
    exec (.rxpush [Config.eoi]) lackingEoi =
      .next { lackingEoi with
        rxbuf := []
        out := [.rxf [Config.soiA, Config.protoVer, Config.eoi], .response ⟨0x0#4, 1#32, []⟩] } :=
  congrArg Host.Outcome.next (pushChunk_of_accept rfl (fitsCapacity_small (n := 3) (by decide)) (by decide))

/-- The same RXPUSH on the empty buffer that delivery leaves is rejected as malformed. -/
theorem push_eoi_on_empty_is_malformed {s : State} (hclear : s.fault = false) (hempty : s.rxbuf = []) :
    exec (.rxpush [Config.eoi]) s =
      .next { s with rxbuf := [Config.eoi], out := s.out ++ [.response ⟨ProtocolError.malformed.code, 0#32, []⟩] } := by
  have hpush := pushChunk_of_reject (p := Config.params) (c := [Config.eoi]) (e := .malformed) hclear
    (fitsCapacity_small (by simp [hempty])) (by simp) (by rw [hempty]; decide)
  rw [hempty] at hpush
  exact congrArg Host.Outcome.next hpush

/-- Settles O57: all but CFGW and RXPUSH emit from the registers alone, a second CFGW overwrites with the same fields, and of
two pushes of EOI only the first delivers. -/
theorem statelessTransactionsRepeat : Obligations.StatelessTransactionsRepeat := by
  refine ⟨?_, fun a b c d s t u => exec_cfgw_twice, ?_⟩
  · intro i s hcfgw hpush
    obtain ⟨f, hf, hexec⟩ := exec_emitsFromRegisters hcfgw hpush
    obtain ⟨new, hnew⟩ := hf.exists_new s
    exact ⟨new, fun s' hcfg hrxbuf hfault => (hexec s').trans (congrArg _ (hnew s' hcfg hrxbuf hfault))⟩
  · refine ⟨[Config.eoi], lackingEoi, _, _, push_eoi_delivers, push_eoi_on_empty_is_malformed rfl rfl, ?_, ?_⟩
    · simp [lackingEoi, State.reset]
    · simp

end Sys2Proof.Machine
end

section
/-! Fields of a 32-bit word: a field read out and put back is the word under the field's mask, and a masked word is a match
exactly when each field of the mask has the match's value (spec/30_encoding.md R82, R84). -/

namespace Sys2Proof

/-- The bits of a 32-bit word that a field of `n` bits at bit `lo` covers. -/
def fieldMask (lo n : Nat) : Word := placeAt (BitVec.allOnes n) lo

theorem getLsbD_fieldMask (lo n i : Nat) :
    (fieldMask lo n).getLsbD i = (decide (i < 32) && decide (lo ≤ i) && decide (i - lo < n)) := by
  simp [fieldMask, getLsbD_placeAt]

/-- A field of a word, put back in its place, is the word under the field's mask. -/
theorem placeAt_extractLsb' (w : Word) (lo n : Nat) : placeAt (w.extractLsb' lo n) lo = w &&& fieldMask lo n := by
  apply BitVec.eq_of_getLsbD_eq
  intro i hi
  simp only [getLsbD_placeAt, BitVec.getLsbD_extractLsb', BitVec.getLsbD_and, getLsbD_fieldMask]
  by_cases hlo : lo ≤ i
  · simp [hi, hlo, Nat.add_sub_cancel' hlo, Bool.and_comm]
  · simp [hlo]

/-- A placed value lies within its field. -/
theorem placeAt_and_fieldMask {n : Nat} (v : BitVec n) (lo : Nat) : placeAt v lo &&& fieldMask lo n = placeAt v lo := by
  apply BitVec.eq_of_getLsbD_eq
  intro i hi
  simp only [BitVec.getLsbD_and, getLsbD_placeAt, getLsbD_fieldMask]
  by_cases hn : i - lo < n
  · by_cases hlo : lo ≤ i <;> simp [hi, hn, hlo]
  · simp [BitVec.getLsbD_of_ge v _ (Nat.le_of_not_lt hn)]

/-- A placed value is read back from its field, whatever stands in the other bits. -/
theorem extractLsb'_placeAt_or {n lo : Nat} (v : BitVec n) {a : Word} (hfit : lo + n ≤ 32)
    (ha : a &&& fieldMask lo n = 0#32) : (placeAt v lo ||| a).extractLsb' lo n = v := by
  apply BitVec.eq_of_getLsbD_eq
  intro i hi
  have hlt : lo + i < 32 := by omega
  have hbit : a.getLsbD (lo + i) = false := by
    have h := congrArg (BitVec.getLsbD · (lo + i)) ha
    simpa only [BitVec.getLsbD_and, getLsbD_fieldMask, hlt, hi, Nat.le_add_right, Nat.add_sub_cancel_left, decide_true,
      Bool.and_true, BitVec.getLsbD_zero] using h
  simp only [BitVec.getLsbD_extractLsb', BitVec.getLsbD_or, getLsbD_placeAt, hbit, hi, hlt, Nat.le_add_right,
    Nat.add_sub_cancel_left, decide_true, Bool.true_and, Bool.or_false]

/-- A word that is a placed value under the field's mask has that value in the field. -/
theorem extractLsb'_eq_of_placeAt_eq {n lo : Nat} {w : Word} {v : BitVec n} (hfit : lo + n ≤ 32)
    (h : w &&& fieldMask lo n = placeAt v lo) : w.extractLsb' lo n = v := by
  have hw := extractLsb'_placeAt_or (w.extractLsb' lo n) hfit (BitVec.zero_and (x := fieldMask lo n))
  rw [placeAt_extractLsb', h, extractLsb'_placeAt_or v hfit BitVec.zero_and] at hw
  exact hw.symm

/-- A word under the mask of one field is a placed value exactly when the field has that value. -/
theorem and_fieldMask_eq_iff {n lo : Nat} (w : Word) (v : BitVec n) (hfit : lo + n ≤ 32) :
    w &&& fieldMask lo n = placeAt v lo ↔ w.extractLsb' lo n = v :=
  ⟨extractLsb'_eq_of_placeAt_eq hfit, fun h => by rw [← placeAt_extractLsb', h]⟩

/-- A word under a mask of one field and disjoint others: the field has its value, and the rest is a match of its own. -/
theorem and_fieldMask_or_eq_iff {n lo : Nat} (w : Word) (v : BitVec n) {m a : Word} (hfit : lo + n ≤ 32)
    (hdisj : m &&& fieldMask lo n = 0#32) (ha : a &&& m = a) :
    w &&& (fieldMask lo n ||| m) = placeAt v lo ||| a ↔ w.extractLsb' lo n = v ∧ w &&& m = a := by
  have ha0 : a &&& fieldMask lo n = 0#32 := by rw [← ha, BitVec.and_assoc, hdisj, BitVec.and_zero]
  have hv0 : placeAt v lo &&& m = 0#32 := by
    rw [← placeAt_and_fieldMask, BitVec.and_assoc, BitVec.and_comm _ m, hdisj, BitVec.and_zero]
  rw [← and_fieldMask_eq_iff w v hfit]
  refine ⟨fun h => ⟨?_, ?_⟩, fun ⟨hfield, hrest⟩ => by rw [BitVec.and_or_distrib_left, hfield, hrest]⟩
  · have hcut := congrArg (· &&& fieldMask lo n) h
    simpa [BitVec.and_assoc, BitVec.and_or_distrib_right, hdisj, ha0, placeAt_and_fieldMask] using hcut
  · have hcut := congrArg (· &&& m) h
    have hmask : (fieldMask lo n ||| m) &&& m = m := by
      rw [BitVec.and_or_distrib_right, BitVec.and_comm, hdisj, BitVec.and_self, BitVec.zero_or]
    simpa only [BitVec.and_assoc, BitVec.and_or_distrib_right, hmask, hv0, ha, BitVec.zero_or] using hcut

end Sys2Proof
end

section
/-! The request table read as a function: at most one row matches a word, so decoding is that row's reading, and the rows read
exactly what they are encoded to (spec/30_encoding.md R82 to R87). -/

namespace Sys2Proof

theorem Row.fits_iff (row : Row) (w : Word) : row.fits w = true ↔ w &&& row.maskBits = row.matchBits := by
  simp [Row.fits]

/-- Two patterns that one word matches agree on the bits both of them look at. -/
theorem matches_agree {w m m' a a' : Word} (h : w &&& m = a) (h' : w &&& m' = a') : a &&& m' = a' &&& m := by
  rw [← h, ← h', BitVec.and_assoc, BitVec.and_assoc, BitVec.and_comm m]

/-- Rows of different mnemonics disagree on a bit that both of them look at (R85). -/
theorem mnemonic_eq_of_agree : ∀ row ∈ requestTable, ∀ row' ∈ requestTable,
    row.matchBits &&& row'.maskBits = row'.matchBits &&& row.maskBits → row.mnemonic = row'.mnemonic := by decide

/-- Settles O3: two rows that match one word agree on their common bits, and rows of different mnemonics do not. -/
theorem atMostOneRowMatchesAWord : Obligations.AtMostOneRowMatchesAWord := by
  intro w row hrow row' hrow' hfit hfit'
  rw [Row.fits_iff] at hfit hfit'
  exact mnemonic_eq_of_agree row hrow row' hrow' (matches_agree hfit hfit')

/-- Each mnemonic stands once in the table (R82). -/
theorem requestTable_mnemonics_nodup : (requestTable.map Row.mnemonic).Nodup := by decide

/-- At most one row matches a word, as rows (R85). -/
theorem row_eq_of_fits {w : Word} {row row' : Row} (hrow : row ∈ requestTable) (hrow' : row' ∈ requestTable)
    (hfit : row.fits w = true) (hfit' : row'.fits w = true) : row = row' :=
  List.inj_on_of_nodup_map requestTable_mnemonics_nodup hrow hrow'
    (atMostOneRowMatchesAWord w row hrow row' hrow' hfit hfit')

/-- What the scan finds is a row of the table that matches (R85). -/
theorem mem_and_fits_of_find? {w : Word} {row : Row} (h : requestTable.find? (fun row => row.fits w) = some row) :
    row ∈ requestTable ∧ row.fits w = true :=
  ⟨List.mem_of_find?_eq_some h, List.find?_some (p := fun row : Row => row.fits w) h⟩

/-- The scan finds a matching row wherever it stands (R85). -/
theorem find?_eq_of_fits {w : Word} {row : Row} (hrow : row ∈ requestTable) (hfit : row.fits w = true) :
    requestTable.find? (fun row => row.fits w) = some row := by
  cases hfind : requestTable.find? (fun row => row.fits w) with
  | none => exact absurd hfit (List.find?_eq_none.mp hfind row hrow)
  | some found =>
    obtain ⟨hmem, hfound⟩ := mem_and_fits_of_find? hfind
    rw [row_eq_of_fits hmem hrow hfound hfit]

/-- The row takes the request: the word matches and the DATA has the length the row states (R85, R87). -/
def Row.Takes (row : Row) (r : Request) : Prop := row.fits r.req = true ∧ r.data.length = row.dataLen r.req

/-- A request decodes to `i` exactly when a row takes it and builds `i` (R85, R87). -/
theorem decode_eq_ok_iff {r : Request} {i : Instr} :
    decode r = .ok i ↔ ∃ row ∈ requestTable, row.Takes r ∧ row.build r.req r.data = i := by
  constructor
  · intro h
    unfold decode at h
    split at h
    · cases h
    · next row hfind =>
      split at h
      · next hlen =>
        obtain ⟨hrow, hfit⟩ := mem_and_fits_of_find? hfind
        exact ⟨row, hrow, ⟨hfit, hlen⟩, Except.ok.inj h⟩
      · cases h
  · rintro ⟨row, hrow, ⟨hfit, hlen⟩, rfl⟩
    simp only [decode, find?_eq_of_fits hrow hfit, hlen, if_true]

/-- A request decodes to nothing exactly when no row takes it (R86, R87). -/
theorem exists_decode_error_iff {r : Request} :
    (∃ e, decode r = .error e) ↔ ¬ ∃ row ∈ requestTable, row.Takes r := by
  cases hd : decode r with
  | ok i =>
    obtain ⟨row, hrow, htakes, -⟩ := decode_eq_ok_iff.mp hd
    simpa using ⟨row, hrow, htakes⟩
  | error e =>
    simp only [Except.error.injEq, exists_eq', true_iff]
    rintro ⟨row, hrow, htakes⟩
    have hok := decode_eq_ok_iff.mpr ⟨row, hrow, htakes, rfl⟩
    simp [hd] at hok

/-- Every instruction's encoded word fits a row that builds the instruction from it (R82, R84). -/
theorem encodedWordFitsItsRow (i : Instr) : Laws.EncodedWordFitsItsRow.Statement i := by
  cases i with
  | cfgw a s l c => exact Laws.EncodedWordFitsItsRow.cfgw a s l c
  | cfgr => exact Laws.EncodedWordFitsItsRow.cfgr
  | enc c => exact Laws.EncodedWordFitsItsRow.enc c
  | enci c v => exact Laws.EncodedWordFitsItsRow.enci c v
  | cmdTime => exact Laws.EncodedWordFitsItsRow.cmdTime
  | cmdPver => exact Laws.EncodedWordFitsItsRow.cmdPver
  | cmdDaddr => exact Laws.EncodedWordFitsItsRow.cmdDaddr
  | cmdManuf => exact Laws.EncodedWordFitsItsRow.cmdManuf
  | cmdAnalog0 => exact Laws.EncodedWordFitsItsRow.cmdAnalog0
  | cmdAnalog1 => exact Laws.EncodedWordFitsItsRow.cmdAnalog1
  | lchk l => exact Laws.EncodedWordFitsItsRow.lchk l
  | pchk d => exact Laws.EncodedWordFitsItsRow.pchk d
  | rxpush c => exact Laws.EncodedWordFitsItsRow.rxpush c
  | rxpeek => exact Laws.EncodedWordFitsItsRow.rxpeek

/-- The instruction brings DATA with it (R87). -/
def Instr.carriesData : Instr → Bool
  | .pchk _ | .rxpush _ => true
  | _ => false

/-- A row states a DATA length exactly when the instructions it builds carry DATA (R87). -/
theorem carriesData_build : ∀ row ∈ requestTable, ∀ (w : Word) (d : List Byte),
    (row.build w d).carriesData = row.carriesData := by
  simp [requestTable, controlRows, encoderRows, commandRows, checksumRows, receiverRows, Instr.carriesData]

/-- The operand N of an encoded PCHK or RXPUSH is its DATA length (R84, R87). -/
theorem extractLsb'_dataWord {op : Word} {d : List Byte} (hop : op &&& fieldMask 0 16 = 0#32) (hd : dataFits d = true) :
    ((op ||| placeAt (BitVec.ofNat 16 d.length) 0).extractLsb' 0 16).toNat = d.length := by
  have hlt : d.length < 65536 := of_decide_eq_true hd
  rw [BitVec.or_comm, extractLsb'_placeAt_or _ (by decide) hop, BitVec.toNat_ofNat]
  exact Nat.mod_eq_of_lt hlt

/-- A well-formed instruction is encoded with the DATA length its word states, and without DATA where it carries none (R87). -/
theorem length_encode_data {i : Instr} (hwf : i.wellFormed = true) :
    (encode i).data.length = if i.carriesData then ((encode i).req.extractLsb' 0 16).toNat else 0 := by
  cases i with
  | pchk d => exact (extractLsb'_dataWord (by decide) hwf).symm
  | rxpush c => exact (extractLsb'_dataWord (by decide) hwf).symm
  | _ => rfl

/-- Settles O1: the row that the encoded word fits has the encoded DATA length and builds the instruction again. -/
theorem decodeOfEncodeIsTheInstruction : Obligations.DecodeOfEncodeIsTheInstruction := by
  intro i hwf
  obtain ⟨row, hrow, hfit, hbuild⟩ := encodedWordFitsItsRow i
  refine decode_eq_ok_iff.mpr ⟨row, hrow, ⟨hfit, ?_⟩, hbuild⟩
  rw [length_encode_data hwf, Row.dataLen, ← carriesData_build row hrow (encode i).req (encode i).data, hbuild]

/-- The row reads every word and DATA it takes without loss: what it builds is well-formed and encoded to them again. -/
def Row.ReadsExactly (row : Row) : Prop :=
  ∀ (w : Word) (d : List Byte), w &&& row.maskBits = row.matchBits → d.length = row.dataLen w →
    (row.build w d).wellFormed = true ∧ encode (row.build w d) = ⟨w, d⟩

/-- A matched word is its match and, back in their places, the fields the mask leaves open. -/
theorem or_and_eq_of_and_eq {w m a : Word} (hw : w &&& m = a) {f : Word} (hall : m ||| f = BitVec.allOnes 32) :
    a ||| w &&& f = w := by
  rw [← hw, ← BitVec.and_or_distrib_left, hall, BitVec.and_allOnes]

/-- A row without operands reads its one word exactly. -/
theorem readsExactly_fixed (name : String) {word : Word} {i : Instr} (hwf : i.wellFormed = true)
    (henc : encode i = ⟨word, []⟩) : Row.ReadsExactly ⟨name, word, 0xFFFFFFFF#32, false, fun _ _ => i⟩ := by
  intro w d hw hd
  obtain rfl : w = word := (BitVec.and_allOnes (x := w)).symm.trans hw
  obtain rfl : d = [] := List.length_eq_zero_iff.mp hd
  exact ⟨hwf, henc⟩

/-- CFGW: its mask leaves open exactly the four operand fields (R82). -/
theorem readsExactly_cfgw :
    Row.ReadsExactly ⟨"CFGW", 0x10000000#32, 0xFFFFF800#32, false, fun q _ =>
      .cfgw (q.extractLsb' 0 8) (q.extractLsb' 8 1) (q.extractLsb' 9 1) (q.extractLsb' 10 1)⟩ := by
  intro w d hw hd
  obtain rfl : d = [] := List.length_eq_zero_iff.mp hd
  refine ⟨rfl, ?_⟩
  simp only [encode, placeAt_extractLsb', BitVec.or_assoc, ← BitVec.and_or_distrib_left]
  rw [or_and_eq_of_and_eq hw (by decide)]

/-- ENC: its mask leaves open exactly the CID2 field (R82). -/
theorem readsExactly_enc :
    Row.ReadsExactly ⟨"ENC", 0x30000000#32, 0xFF00FFFF#32, false, fun q _ => .enc (q.extractLsb' 16 8)⟩ := by
  intro w d hw hd
  obtain rfl : d = [] := List.length_eq_zero_iff.mp hd
  refine ⟨rfl, ?_⟩
  simp only [encode, placeAt_extractLsb']
  rw [or_and_eq_of_and_eq hw (by decide)]

/-- ENCI: its mask leaves open exactly the CID2 and INFO fields (R82). -/
theorem readsExactly_enci :
    Row.ReadsExactly ⟨"ENCI", 0x31000000#32, 0xFF000000#32, false, fun q _ =>
      .enci (q.extractLsb' 16 8) (q.extractLsb' 0 16)⟩ := by
  intro w d hw hd
  obtain rfl : d = [] := List.length_eq_zero_iff.mp hd
  refine ⟨rfl, ?_⟩
  simp only [encode, placeAt_extractLsb', BitVec.or_assoc, ← BitVec.and_or_distrib_left]
  rw [or_and_eq_of_and_eq hw (by decide)]

/-- LCHK: its mask leaves open exactly the LEN field (R82). -/
theorem readsExactly_lchk :
    Row.ReadsExactly ⟨"LCHK", 0x50000000#32, 0xFFFF0000#32, false, fun q _ => .lchk (q.extractLsb' 0 16)⟩ := by
  intro w d hw hd
  obtain rfl : d = [] := List.length_eq_zero_iff.mp hd
  refine ⟨rfl, ?_⟩
  simp only [encode, placeAt_extractLsb']
  rw [or_and_eq_of_and_eq hw (by decide)]

/-- A row with DATA reads its word exactly: N is the DATA length, so that it is no operand of its own (R87). -/
theorem readsExactly_data (name : String) (word : Word) (build : List Byte → Instr)
    (hwf : ∀ d, (build d).wellFormed = dataFits d)
    (henc : ∀ d, encode (build d) = ⟨word ||| placeAt (BitVec.ofNat 16 d.length) 0, d⟩) :
    Row.ReadsExactly ⟨name, word, 0xFFFF0000#32, true, fun _ d => build d⟩ := by
  intro w d hw hd
  have hlen : d.length = (w.extractLsb' 0 16).toNat := hd
  have hupper : w &&& 0xFFFF0000#32 = word := hw
  refine ⟨?_, ?_⟩
  · rw [hwf, dataFits, hlen]
    exact decide_eq_true (w.extractLsb' 0 16).isLt
  · rw [henc, hlen, BitVec.ofNat_toNat, BitVec.setWidth_eq, placeAt_extractLsb', or_and_eq_of_and_eq hupper (by decide)]

/-- Every row of the table reads its words and DATA without loss (R83, R87). -/
theorem requestTable_readsExactly : ∀ row ∈ requestTable, row.ReadsExactly := by
  simp only [requestTable, controlRows, encoderRows, commandRows, checksumRows, receiverRows, List.cons_append,
    List.nil_append, List.forall_mem_cons]
  exact ⟨readsExactly_cfgw, readsExactly_fixed _ rfl rfl, readsExactly_enc, readsExactly_enci,
    readsExactly_fixed _ rfl rfl, readsExactly_fixed _ rfl rfl, readsExactly_fixed _ rfl rfl,
    readsExactly_fixed _ rfl rfl, readsExactly_fixed _ rfl rfl, readsExactly_fixed _ rfl rfl, readsExactly_lchk,
    readsExactly_data _ _ .pchk (fun _ => rfl) (fun _ => rfl), readsExactly_data _ _ .rxpush (fun _ => rfl) (fun _ => rfl),
    readsExactly_fixed _ rfl rfl, nofun⟩

/-- Settles O2: the row that decoded the request reads it without loss. -/
theorem encodeOfDecodeIsTheRequest : Obligations.EncodeOfDecodeIsTheRequest := by
  intro r i hd
  obtain ⟨row, hrow, ⟨hfit, hlen⟩, rfl⟩ := decode_eq_ok_iff.mp hd
  exact requestTable_readsExactly row hrow r.req r.data ((row.fits_iff _).mp hfit) hlen

/-- Settles O7: each stands for an encoded instruction, which decodes to itself, or for the reset input. -/
theorem pseudoOperationsStandForTheirRequests : Obligations.PseudoOperationsStandForTheirRequests :=
  ⟨⟨_, rfl, decodeOfEncodeIsTheInstruction .cmdAnalog0 rfl⟩, ⟨_, rfl, decodeOfEncodeIsTheInstruction .cmdAnalog1 rfl⟩,
    fun cid2 info => ⟨_, rfl, decodeOfEncodeIsTheInstruction (.enci cid2 info) rfl⟩, rfl⟩

end Sys2Proof
end

section
/-! Which requests decode to nothing: each row's pattern fixes OP and the must-be-zero fields of its layout, so the requests no
row takes are the reserved and illegal ones (spec/30_encoding.md R82, R83, R86, R87). -/

namespace Sys2Proof

/-- A field of a request word with the value a layout fixes for it (R82). -/
structure FixedField where
  lo : Nat
  width : Nat
  value : BitVec width

/-- The word has the value in the field. -/
def FixedField.Holds (f : FixedField) (w : Word) : Prop := w.extractLsb' f.lo f.width = f.value

/-- The pattern of a layout: its match and its mask. -/
def layoutMatch : List FixedField → Word
  | [] => 0#32
  | f :: fs => placeAt f.value f.lo ||| layoutMatch fs

def layoutMask : List FixedField → Word
  | [] => 0#32
  | f :: fs => fieldMask f.lo f.width ||| layoutMask fs

/-- The fields lie in the word and do not overlap. -/
def layoutDisjoint : List FixedField → Bool
  | [] => true
  | f :: fs => decide (f.lo + f.width ≤ 32) && layoutMask fs &&& fieldMask f.lo f.width == 0#32 && layoutDisjoint fs

/-- What stands under a mask stands under every wider mask. -/
theorem and_or_eq_of_and_eq {x m : Word} (h : x &&& m = x) (m' : Word) : x &&& (m ||| m') = x := by
  apply BitVec.eq_of_getLsbD_eq
  intro i hi
  have hbit := congrArg (BitVec.getLsbD · i) h
  simp only [BitVec.getLsbD_and, BitVec.getLsbD_or] at hbit ⊢
  cases hx : x.getLsbD i <;> simp_all

/-- A layout's match stands under its mask. -/
theorem layoutMatch_and_layoutMask (fs : List FixedField) : layoutMatch fs &&& layoutMask fs = layoutMatch fs := by
  induction fs with
  | nil => rfl
  | cons f fs ih =>
    have hhead := and_or_eq_of_and_eq (placeAt_and_fieldMask f.value f.lo) (layoutMask fs)
    have htail := and_or_eq_of_and_eq ih (fieldMask f.lo f.width)
    rw [layoutMatch, layoutMask, BitVec.and_or_distrib_right, hhead, BitVec.or_comm (fieldMask _ _), htail]

/-- A word matches a layout's pattern exactly when every field has its value (R82, R85). -/
theorem and_layoutMask_eq_iff {fs : List FixedField} (hfs : layoutDisjoint fs = true) (w : Word) :
    w &&& layoutMask fs = layoutMatch fs ↔ ∀ f ∈ fs, f.Holds w := by
  induction fs with
  | nil => simp [layoutMask, layoutMatch]
  | cons f fs ih =>
    simp only [layoutDisjoint, Bool.and_eq_true, decide_eq_true_eq, beq_iff_eq] at hfs
    obtain ⟨⟨hfit, hdisj⟩, htail⟩ := hfs
    rw [layoutMask, layoutMatch, and_fieldMask_or_eq_iff w f.value hfit hdisj (layoutMatch_and_layoutMask fs), ih htail,
      List.forall_mem_cons, FixedField.Holds]

/-- The fixed fields of each operation's layout: OP, the flag or selector, and the must-be-zero bits (R82, R83). -/
def layoutOf : String → List FixedField
  | "CFGW" => [⟨28, 4, 1#4⟩, ⟨11, 17, 0#17⟩]
  | "CFGR" => [⟨28, 4, 2#4⟩, ⟨0, 28, 0#28⟩]
  | "ENC" => [⟨28, 4, 3#4⟩, ⟨25, 3, 0#3⟩, ⟨24, 1, 0#1⟩, ⟨0, 16, 0#16⟩]
  | "ENCI" => [⟨28, 4, 3#4⟩, ⟨25, 3, 0#3⟩, ⟨24, 1, 1#1⟩]
  | "CMD.TIME" => [⟨28, 4, 4#4⟩, ⟨4, 24, 0#24⟩, ⟨0, 4, 0#4⟩]
  | "CMD.PVER" => [⟨28, 4, 4#4⟩, ⟨4, 24, 0#24⟩, ⟨0, 4, 1#4⟩]
  | "CMD.DADDR" => [⟨28, 4, 4#4⟩, ⟨4, 24, 0#24⟩, ⟨0, 4, 2#4⟩]
  | "CMD.MANUF" => [⟨28, 4, 4#4⟩, ⟨4, 24, 0#24⟩, ⟨0, 4, 3#4⟩]
  | "CMD.ANALOG0" => [⟨28, 4, 4#4⟩, ⟨4, 24, 0#24⟩, ⟨0, 4, 4#4⟩]
  | "CMD.ANALOG1" => [⟨28, 4, 4#4⟩, ⟨4, 24, 0#24⟩, ⟨0, 4, 5#4⟩]
  | "LCHK" => [⟨28, 4, 5#4⟩, ⟨16, 12, 0#12⟩]
  | "PCHK" => [⟨28, 4, 6#4⟩, ⟨16, 12, 0#12⟩]
  | "RXPUSH" => [⟨28, 4, 7#4⟩, ⟨16, 12, 0#12⟩]
  | "RXPEEK" => [⟨28, 4, 8#4⟩, ⟨0, 28, 0#28⟩]
  | _ => []

/-- Every row's match and mask are the pattern of its operation's layout (R82). -/
theorem requestTable_layouts : ∀ row ∈ requestTable,
    layoutDisjoint (layoutOf row.mnemonic) = true ∧ row.maskBits = layoutMask (layoutOf row.mnemonic) ∧
      row.matchBits = layoutMatch (layoutOf row.mnemonic) := by decide

/-- A word fits a row exactly when it has the fixed fields of the row's layout (R82, R85). -/
theorem fits_iff_layout {row : Row} (hrow : row ∈ requestTable) (w : Word) :
    row.fits w = true ↔ ∀ f ∈ layoutOf row.mnemonic, f.Holds w := by
  obtain ⟨hdisj, hmask, hmatch⟩ := requestTable_layouts row hrow
  rw [Row.fits_iff, hmask, hmatch, and_layoutMask_eq_iff hdisj]

end Sys2Proof

namespace Sys2Proof.Machine

/-- A request that a row takes is not illegal: OP picks the row's clause of the layouts, which the fixed fields rule out. -/
theorem not_illegalRequest_of_takes {r : Request} {row : Row} (hrow : row ∈ requestTable) (htakes : row.Takes r) :
    ¬ IllegalRequest r := by
  obtain ⟨hfit, hlen⟩ := htakes
  rw [fits_iff_layout hrow] at hfit
  simp only [requestTable, controlRows, encoderRows, commandRows, checksumRows, receiverRows, List.cons_append,
    List.nil_append, List.mem_cons, List.not_mem_nil, or_false] at hrow
  rcases hrow with rfl | rfl | rfl | rfl | rfl | rfl | rfl | rfl | rfl | rfl | rfl | rfl | rfl | rfl
  all_goals
    obtain ⟨hop, hfields⟩ := List.forall_mem_cons.mp hfit
    simp only [FixedField.Holds] at hop
    simp only [List.forall_mem_cons, FixedField.Holds] at hfields
    simp [IllegalRequest, hop, hfields, hlen, Row.dataLen]

/-- A request with the fixed fields and the DATA length of a row is taken. -/
theorem exists_takes_of_layout {r : Request} (n : Nat) (row : Row) (hrow : requestTable[n]? = some row)
    (hfields : ∀ f ∈ layoutOf row.mnemonic, f.Holds r.req) (hlen : r.data.length = row.dataLen r.req) :
    ∃ row ∈ requestTable, row.Takes r :=
  have hmem := List.mem_of_getElem? hrow
  ⟨row, hmem, (fits_iff_layout hmem _).mpr hfields, hlen⟩

/-- A field's value, named by its number. -/
theorem eq_ofNat_of_toNat_eq {n k : Nat} {v : BitVec n} (h : v.toNat = k) : v = BitVec.ofNat n k := by
  rw [← h, BitVec.ofNat_toNat, BitVec.setWidth_eq]

/-- A CMD word with one of the six selectors, and no DATA, is taken by the row of its selector (43_commands.md R180, R187). -/
theorem exists_takes_of_cmd {r : Request} (hop : r.req.extractLsb' 28 4 = 4#4) (hzero : r.req.extractLsb' 4 24 = 0#24)
    (hsel : (r.req.extractLsb' 0 4).toNat < 6) (hlen : r.data.length = 0) : ∃ row ∈ requestTable, row.Takes r := by
  obtain ⟨k, hk⟩ : ∃ k, (r.req.extractLsb' 0 4).toNat = k := ⟨_, rfl⟩
  have hfields : ∀ f ∈ [⟨28, 4, 4#4⟩, ⟨4, 24, 0#24⟩, ⟨0, 4, BitVec.ofNat 4 k⟩], FixedField.Holds f r.req := by
    simp [FixedField.Holds, hop, hzero, eq_ofNat_of_toNat_eq hk]
  rw [hk] at hsel
  interval_cases k
  · exact exists_takes_of_layout 4 _ rfl hfields hlen
  · exact exists_takes_of_layout 5 _ rfl hfields hlen
  · exact exists_takes_of_layout 6 _ rfl hfields hlen
  · exact exists_takes_of_layout 7 _ rfl hfields hlen
  · exact exists_takes_of_layout 8 _ rfl hfields hlen
  · exact exists_takes_of_layout 9 _ rfl hfields hlen

/-- A request that is not illegal is taken by the row of its operation. -/
theorem exists_takes_of_not_illegalRequest {r : Request} (h : ¬ IllegalRequest r) :
    ∃ row ∈ requestTable, row.Takes r := by
  simp only [IllegalRequest, not_or, not_and, not_not] at h
  obtain ⟨h0, h9, hcfgw, hcfgr, henc, hcmd, hhalf, hpeek, hlen⟩ := h
  obtain ⟨k, hk⟩ : ∃ k, (r.req.extractLsb' 28 4).toNat = k := ⟨_, rfl⟩
  have hop := eq_ofNat_of_toNat_eq hk
  rw [hk] at h0 h9 hcfgw hcfgr henc hcmd hhalf hpeek hlen
  have hpos : 1 ≤ k := Nat.pos_of_ne_zero h0
  have hlt : k < 9 := Nat.lt_of_not_le h9
  interval_cases k
  · exact exists_takes_of_layout 0 _ rfl (by simp [layoutOf, FixedField.Holds, hop, hcfgw]) hlen
  · exact exists_takes_of_layout 1 _ rfl (by simp [layoutOf, FixedField.Holds, hop, hcfgr]) hlen
  · obtain ⟨hzero, hinfo⟩ := henc rfl
    by_cases hflag : r.req.extractLsb' 24 1 = 0#1
    · exact exists_takes_of_layout 2 _ rfl (by simp [layoutOf, FixedField.Holds, hop, hzero, hflag, hinfo]) hlen
    · have hone : r.req.extractLsb' 24 1 = 1#1 := (BitVec.eq_zero_or_eq_one _).resolve_left hflag
      exact exists_takes_of_layout 3 _ rfl (by simp [layoutOf, FixedField.Holds, hop, hzero, hone]) hlen
  · obtain ⟨hzero, hsel⟩ := hcmd rfl
    exact exists_takes_of_cmd hop hzero (Nat.lt_of_not_le hsel) hlen
  · exact exists_takes_of_layout 10 _ rfl (by simp [layoutOf, FixedField.Holds, hop, hhalf]) hlen
  · exact exists_takes_of_layout 11 _ rfl (by simp [layoutOf, FixedField.Holds, hop, hhalf]) hlen
  · exact exists_takes_of_layout 12 _ rfl (by simp [layoutOf, FixedField.Holds, hop, hhalf]) hlen
  · exact exists_takes_of_layout 13 _ rfl (by simp [layoutOf, FixedField.Holds, hop, hpeek]) hlen

/-- Settles O5: a request decodes to nothing when no row takes it, and the rows take exactly the requests that are not
illegal. -/
theorem undecodableRequestsAreTheIllegalOnes : Obligations.UndecodableRequestsAreTheIllegalOnes := by
  intro r
  rw [exists_decode_error_iff]
  refine ⟨fun hnone => ?_, fun hill ⟨row, hrow, htakes⟩ => not_illegalRequest_of_takes hrow htakes hill⟩
  by_contra hlegal
  exact hnone (exists_takes_of_not_illegalRequest hlegal)

end Sys2Proof.Machine
end

section
/-! A request's step: the decoded instruction's, or a refusal; and the one response that ends it (spec/30_encoding.md R81, R85,
R86, spec/20_memory.md R49). -/

namespace Sys2Proof.Machine

/-- The step of a request is its refusal or its instruction, on the state with the request taken (R85, R86). -/
theorem step_request_cases {s : State} {r : Request} {es : List Event} (hp : s.pending = .request r :: es) :
    (∃ e, decode r = .error e ∧ step s = .next { s with
        pending := es
        out := s.out ++ [.response ⟨if s.fault = true then 0x7#4 else 0x6#4, 0#32, []⟩] }) ∨
      (∃ i, decode r = .ok i ∧ step s = exec i { s with pending := es }) := by
  rcases step_cases s with ⟨hp', -⟩ | ⟨es', hp', -⟩ | ⟨r', es', e, hp', hd, h⟩ | ⟨r', es', i, hp', hd, h⟩
  case inl => simp [hp] at hp'
  case inr.inl => simp [hp] at hp'
  all_goals obtain ⟨rfl, rfl⟩ : r = r' ∧ es = es' := by simpa [hp] using hp'
  case inr.inr.inl => exact .inl ⟨e, hd, h⟩
  case inr.inr.inr => exact .inr ⟨i, hd, h⟩

/-- Settles O8: a request that decodes is not refused, and its instruction is the decoded one. -/
theorem stepRunsTheDecodedInstruction : Obligations.StepRunsTheDecodedInstruction := by
  intro s r es i hp hd
  rcases step_request_cases hp with ⟨e, hd', -⟩ | ⟨i', hd', h⟩
  · simp [hd] at hd'
  · obtain rfl : i = i' := Except.ok.inj (hd.symm.trans hd')
    exact h

/-- Settles O6: an illegal request decodes to nothing, and with FAULT = 0 its refusal is ILLEGAL_REQUEST. -/
theorem illegalRequestsAreRefusedWithoutEffect : Obligations.IllegalRequestsAreRefusedWithoutEffect := by
  intro s r es hp hclear hill
  obtain ⟨e, hd⟩ := (undecodableRequestsAreTheIllegalOnes r).mpr hill
  rcases step_request_cases hp with ⟨-, -, h⟩ | ⟨i, hd', -⟩
  · simpa [hclear] using h
  · simp [hd] at hd'

/-- The transaction from `s` to `t` takes no event of its own, emits at most one frame and then exactly one response, with
VALUE 0, no DATA and no frame on an error, and DATA only where `mayCarryData` allows it (R81, R49). -/
def EndsWithOneResponse (mayCarryData : Prop) (s t : State) : Prop :=
  ∃ (emitted : List Output) (resp : Response), t.pending = s.pending ∧ t.out = s.out ++ emitted ++ [.response resp] ∧
    responses emitted = [] ∧ emitted.length ≤ 1 ∧
    (resp.status ≠ 0x0#4 → resp.value = 0#32 ∧ resp.data = [] ∧ emitted = []) ∧ (resp.data ≠ [] → mayCarryData)

namespace EndsWithOneResponse

variable {mayCarryData : Prop} {s t : State}

/-- A response alone with VALUE 0 and no DATA, whatever its status. -/
theorem of_plain {c : BitVec 4} (hpending : t.pending = s.pending)
    (hout : t.out = s.out ++ [.response ⟨c, 0#32, []⟩]) : EndsWithOneResponse mayCarryData s t :=
  ⟨[], ⟨c, 0#32, []⟩, hpending, by simpa using hout, rfl, Nat.zero_le 1, fun _ => ⟨rfl, rfl, rfl⟩, fun h => absurd rfl h⟩

/-- An OK response behind at most one frame. -/
theorem of_ok {emitted : List Output} {v : Word} {d : List Byte} (hpending : t.pending = s.pending)
    (hout : t.out = s.out ++ emitted ++ [.response ⟨0x0#4, v, d⟩]) (hframe : responses emitted = [])
    (hone : emitted.length ≤ 1) (hdata : d ≠ [] → mayCarryData) : EndsWithOneResponse mayCarryData s t :=
  ⟨emitted, ⟨0x0#4, v, d⟩, hpending, hout, hframe, hone, fun h => absurd rfl h, hdata⟩

theorem mono {mayCarryData' : Prop} (h : EndsWithOneResponse mayCarryData s t) (himp : mayCarryData → mayCarryData') :
    EndsWithOneResponse mayCarryData' s t := by
  obtain ⟨emitted, resp, hpending, hout, hframe, hone, herror, hdata⟩ := h
  exact ⟨emitted, resp, hpending, hout, hframe, hone, herror, fun hne => himp (hdata hne)⟩

end EndsWithOneResponse

/-- An RXPUSH ends with one response without DATA, behind the frame it delivers if it delivers one (42_receiver.md R151). -/
theorem pushChunk_endsWithOneResponse (mayCarryData : Prop) (p : Params) (c : List Byte) (s : State) :
    EndsWithOneResponse mayCarryData s (pushChunk p c s) := by
  rcases pushChunk_cases p c s with ⟨-, h⟩ | ⟨-, -, h⟩ | ⟨-, -, -, -, h⟩ | ⟨-, -, -, e, -, h⟩ | ⟨-, -, -, h⟩
  all_goals rw [h]
  case inr.inr.inr.inr => exact .of_ok (emitted := [.rxf (s.rxbuf ++ c)]) rfl rfl rfl (Nat.le_refl 1) (absurd rfl)
  all_goals exact .of_plain rfl rfl

/-- Every instruction ends with one response, with DATA for RXPEEK only (R81). -/
theorem exec_endsWithOneResponse (i : Instr) (s : State) :
    ∃ t, exec i s = .next t ∧ EndsWithOneResponse (i = .rxpeek) s t := by
  rcases exec_cases i s with ⟨-, h⟩ | ⟨-, a, b, c, d, -, h⟩ | ⟨-, c, -, h⟩ | ⟨-, v, d, hd, h⟩ | ⟨-, e, -, h⟩ |
    ⟨-, cid2, info, f, -, h⟩
  all_goals refine ⟨_, h, ?_⟩
  case inr.inr.inl => exact pushChunk_endsWithOneResponse _ _ c s
  case inr.inr.inr.inl => exact .of_ok (emitted := []) (v := v) rfl (by simp) rfl (Nat.zero_le 1) hd
  case inr.inr.inr.inr.inr =>
    exact .of_ok (emitted := [.tx f]) (v := BitVec.ofNat 32 f.length) rfl (by simp) rfl (Nat.le_refl 1) (absurd rfl)
  all_goals exact .of_plain rfl rfl

/-- The one request that decodes to RXPEEK is its fixed word (42_receiver.md R161). -/
theorem req_of_decode_rxpeek {r : Request} (hd : decode r = .ok .rxpeek) : r.req = 0x80000000#32 := by
  obtain ⟨-, hr⟩ := encodeOfDecodeIsTheRequest r .rxpeek hd
  rw [← hr]
  rfl

/-- A request's step ends with one response: a refusal is a response alone. DATA answers the RXPEEK word only (R81). -/
theorem step_request_endsWithOneResponse {s : State} {r : Request} {es : List Event}
    (hp : s.pending = .request r :: es) :
    ∃ t, step s = .next t ∧ EndsWithOneResponse (r.req = 0x80000000#32) { s with pending := es } t := by
  rcases step_request_cases hp with ⟨e, -, h⟩ | ⟨i, hd, h⟩
  · exact ⟨_, h, .of_plain rfl rfl⟩
  · obtain ⟨t, hexec, hend⟩ := exec_endsWithOneResponse i { s with pending := es }
    refine ⟨t, h.trans hexec, hend.mono ?_⟩
    rintro rfl
    exact req_of_decode_rxpeek hd

/-- Settles O12, from `step_request_endsWithOneResponse`. -/
theorem everyRequestEndsWithOneResponse : Obligations.EveryRequestEndsWithOneResponse := by
  intro s r es hp
  obtain ⟨t, hstep, emitted, resp, hend⟩ := step_request_endsWithOneResponse hp
  exact ⟨t, emitted, resp, hstep, hend⟩

end Sys2Proof.Machine
end

section
/-! The text and the fields of an encoded frame: doubled hex text, the field sequence, its offsets and its inner bytes
(spec/30_encoding.md R64 to R73). -/

namespace Sys2Proof.Machine

/-- The doubled form of the characters 0 to 9 (R64). -/
theorem dbl_hexChar_of_le_nine :
    ∀ n : BitVec 4, n.toNat ≤ 9 → dbl [hexChar n] = [0x33#8, BitVec.ofNat 8 (0x30 + n.toNat)] := by decide

/-- The doubled form of the characters A to F (R64). -/
theorem dbl_hexChar_of_ten_le :
    ∀ n : BitVec 4, 10 ≤ n.toNat → dbl [hexChar n] = [0x34#8, BitVec.ofNat 8 (0x31 + (n.toNat - 10))] := by decide

/-- Settles O29: both characters of a pair of the table are decimal digits. -/
theorem doubledHexCharactersAreDecimalDigits : Obligations.DoubledHexCharactersAreDecimalDigits := by
  refine ⟨fun n b hb => ?_, dbl_hexChar_of_le_nine, dbl_hexChar_of_ten_le⟩
  have hlt := n.isLt
  rcases Nat.lt_or_ge n.toNat 10 with hdigit | hletter
  · rw [dbl_hexChar_of_le_nine n (by omega)] at hb
    rcases List.mem_pair.mp hb with rfl | rfl
    · decide
    · rw [BitVec.toNat_ofNat]
      omega
  · rw [dbl_hexChar_of_ten_le n hletter] at hb
    rcases List.mem_pair.mp hb with rfl | rfl
    · decide
    · rw [BitVec.toNat_ofNat]
      omega

/-- Settles O30: the fields of `encodeFrame_eq`, with the CFG bits and the CHKSUM text written out. -/
theorem encodeBuildsTheFieldSequence : Obligations.EncodeBuildsTheFieldSequence := by
  intro p cfg cid2 info body c
  have hchk : checksumText (frameChecksum p cfg cid2 info) (cfgChkDbl cfg) =
      renderMode (hex2 (c.extractLsb' 8 8) ++ hex2 (c.extractLsb' 0 8)) (cfg.extractLsb' 10 1) := rfl
  rw [encodeFrame_eq, hchk]
  rfl

/-- The LENGTH field has the width of the table (R72). -/
theorem length_lengthShown (cfg : Word) (info : Option Half) :
    (lengthShown info (cfgLenDbl cfg)).length = (fieldWidths cfg info).1 := by
  cases info with
  | none => rfl
  | some v => by_cases hd : cfgLenDbl cfg = 1#1 <;> simp [lengthShown, fieldWidths, hd]

/-- The INFO field has the width of the table (R72). -/
theorem length_infoShown (cfg : Word) (info : Option Half) :
    (infoShown info (cfgLenDbl cfg)).length = (fieldWidths cfg info).2.1 := by
  cases info with
  | none => rfl
  | some v => by_cases hd : cfgLenDbl cfg = 1#1 <;> simp [infoShown, fieldWidths, hd]

/-- The CHKSUM field has the width of the table (R72). -/
theorem length_checksumText_cfg (c : Half) (cfg : Word) (info : Option Half) :
    (checksumText c (cfgChkDbl cfg)).length = (fieldWidths cfg info).2.2 := by
  rw [length_checksumText]
  cases info with
  | none => rfl
  | some v => by_cases hd : cfgLenDbl cfg = 1#1 <;> simp [fieldWidths, hd]

/-- The body is the eight header characters, LENGTH and INFO (R72). -/
theorem length_frameBody_eq (p : Params) (cfg : Word) (cid2 : Byte) (info : Option Half) :
    (frameBody p cfg cid2 info).length = 8 + (fieldWidths cfg info).1 + (fieldWidths cfg info).2.1 := by
  rw [← length_lengthShown, ← length_infoShown]
  simp only [frameBody, cfgLenDbl, List.length_append, length_hex2]

/-- Behind SOI stand the body, CHKSUM and EOI (R72). -/
theorem drop_one_of_encodeFrame_ok {p : Params} {cfg : Word} {cid2 : Byte} {info : Option Half} {f : List Byte}
    (h : encodeFrame p cfg cid2 info = .ok f) :
    f.drop 1 = frameBody p cfg cid2 info ++
      (checksumText (frameChecksum p cfg cid2 info) (cfgChkDbl cfg) ++ [Config.eoi]) := by
  rw [eq_of_encodeFrame_ok h, List.append_assoc, List.append_assoc]
  rfl

/-- Settles O32: the fields before an offset have the widths of the table, so that what `drop` leaves begins with the offset's
field. -/
theorem fieldsSitAtTheirOffsets : Obligations.FieldsSitAtTheirOffsets := by
  intro p cfg cid2 info f hf l n c
  have hl := length_lengthShown cfg info
  have hn := length_infoShown cfg info
  have hc := length_checksumText_cfg (frameChecksum p cfg cid2 info) cfg info
  have hbodyLen := length_frameBody_eq p cfg cid2 info
  have hframe := eq_of_encodeFrame_ok hf
  have hbody : (f.drop 1).take (8 + l + n) = frameBody p cfg cid2 info := by
    rw [drop_one_of_encodeFrame_ok hf]
    exact List.take_left' hbodyLen
  have hatLength := drop_nine_of_encodeFrame_ok hf
  have hatInfo : f.drop (9 + l) = infoShown info (cfgLenDbl cfg) ++
      (checksumText (frameChecksum p cfg cid2 info) (cfgChkDbl cfg) ++ [Config.eoi]) := by
    rw [← List.drop_drop, hatLength, List.append_assoc, List.drop_left' hl]
  have hatChk : f.drop (9 + l + n) = checksumText (frameChecksum p cfg cid2 info) (cfgChkDbl cfg) ++ [Config.eoi] := by
    rw [← List.drop_drop, hatInfo, List.drop_left' hn]
  have hatEoi : f.drop (9 + l + n + c) = [Config.eoi] := by
    rw [← List.drop_drop, hatChk, List.drop_left' hc]
  refine ⟨?_, ?_, ?_, ?_, ?_, ?_, ?_, ?_, ?_, hatEoi⟩
  · rw [hframe]
    simp only [List.length_append, List.length_singleton, hbodyLen, hc]
    omega
  iterate 5 rw [hframe]; rfl
  · rw [hatLength, List.append_assoc]
    exact List.take_left' hl
  · rw [hatInfo]
    exact List.take_left' hn
  · rw [hbody, hatChk]
    exact List.take_left' hc

/-- A hex character is no EOI and no SOI value (R73). -/
theorem ne_of_isHexChar {b : Byte} (h : isHexChar b = true) : b ≠ 0x0D#8 ∧ b ≠ 0x3E#8 ∧ b ≠ 0x7E#8 := by
  refine ⟨?_, ?_, ?_⟩ <;>
  · rintro rfl
    exact absurd h (by decide)

/-- Settles O33: an inner byte is a byte of the hex text between SOI and EOI. -/
theorem innerBytesAreHexCharacters : Obligations.InnerBytesAreHexCharacters := by
  intro p cfg cid2 info f hf k b hpos hlt hk
  obtain ⟨soi, inner, rfl, -, hhex, -⟩ := legalTxFrame_of_encodeFrame_ok hf
  obtain ⟨j, rfl⟩ := Nat.exists_eq_add_one_of_ne_zero (Nat.ne_of_gt hpos)
  have hj : j < inner.length := by simpa using hlt
  have hmem : b ∈ inner := by
    refine List.mem_of_getElem? (i := j) ?_
    simpa [List.getElem?_append_left, hj] using hk
  exact ⟨hhex b hmem, ne_of_isHexChar (hhex b hmem)⟩

end Sys2Proof.Machine
end

section
/-! What the checksum generators compute, said once: the LENGTH checksum as the negated nibble sum, the payload checksum as the
complement of the byte sum to 65536, and the one response of a generator's transaction (spec/40_checksum.md R100, R102, R104,
R105). -/

namespace Sys2Proof.Machine

/-- The exact sum of the three low nibbles of a length (R100). -/
def nibbleSum {w : Nat} (l : BitVec w) : Nat :=
  (l.extractLsb' 8 4).toNat + (l.extractLsb' 4 4).toNat + (l.extractLsb' 0 4).toNat

theorem nibbleSum_le {w : Nat} (l : BitVec w) : nibbleSum l ≤ 45 := by
  unfold nibbleSum
  omega

/-- The three nibbles of a 16-bit length stand in its low twelve bits. -/
theorem nibbleSum_lowTwelve (len : Half) : nibbleSum (len.extractLsb' 0 12) = nibbleSum len := by
  simp [nibbleSum, BitVec.extractLsb'_extractLsb'_of_le]

/-- Complement plus one is negation, so the LENGTH checksum is the negated nibble sum (R100, R106). -/
theorem lchkf_eq_neg (l : BitVec 12) : lchkf l = -BitVec.ofNat 4 (nibbleSum l) :=
  (BitVec.neg_eq_not_add _).symm

/-- R100's closed form. -/
theorem lchkf_toNat (l : BitVec 12) : (lchkf l).toNat = (16 - nibbleSum l % 16) % 16 := by
  rw [lchkf_eq_neg, BitVec.toNat_neg, BitVec.toNat_ofNat]

/-- The LENGTH checksum brings the nibble sum to 0 mod 16 (R101). -/
theorem nibbleSum_add_lchkf (l : BitVec 12) : (nibbleSum l + (lchkf l).toNat) % 16 = 0 := by
  rw [lchkf_toNat]
  omega

/-- A nibble sum is at most 45, so its multiples of 16 are 0, 16 and 32 (R101). -/
theorem lchkf_eq_zero_iff (l : BitVec 12) :
    lchkf l = 0#4 ↔ nibbleSum l = 0 ∨ nibbleSum l = 16 ∨ nibbleSum l = 32 := by
  have hle := nibbleSum_le l
  rw [← BitVec.toNat_inj, lchkf_toNat, BitVec.toNat_ofNat]
  omega

theorem lchkf_congr {l l' : BitVec 12} (h : nibbleSum l = nibbleSum l') : lchkf l = lchkf l' := by
  rw [lchkf_eq_neg, lchkf_eq_neg, h]

/-- The length check of R104: up to 0xFFF there is a checksum, above there is none. -/
theorem lengthChecksum_of_le {len : Half} (h : len.toNat ≤ 0xFFF) :
    lengthChecksum len = .ok (lchkf (len.extractLsb' 0 12)) :=
  if_neg (Nat.not_lt.mpr h)

theorem lengthChecksum_of_gt {len : Half} (h : 0xFFF < len.toNat) : lengthChecksum len = .error .lengthOverflow :=
  if_pos h

theorem sumBytes_eq_sum (b : List Byte) : sumBytes b = (b.map BitVec.toNat).sum := by
  induction b with
  | nil => rfl
  | cons x xs ih => simp [sumBytes, ih]

/-- A byte sum does not depend on the order of the bytes (R103). -/
theorem sumBytes_eq_of_perm {b b' : List Byte} (h : b.Perm b') : sumBytes b = sumBytes b' := by
  rw [sumBytes_eq_sum, sumBytes_eq_sum]
  exact (h.map BitVec.toNat).sum_eq

theorem sumBytes_replicate (n : Nat) (x : Byte) : sumBytes (List.replicate n x) = n * x.toNat := by
  simp [sumBytes_eq_sum]

/-- The 16-bit accumulator is zero exactly when the byte sum is a multiple of 65536 (R102). -/
theorem ofNat_sumBytes_eq_zero_iff (b : List Byte) : BitVec.ofNat 16 (sumBytes b) = 0#16 ↔ sumBytes b % 65536 = 0 := by
  rw [← BitVec.toNat_inj, BitVec.toNat_ofNat, BitVec.toNat_ofNat]

/-- PCHKF fails on an accumulator of zero (R102, decision D13). -/
theorem pchkf_of_sum_eq_zero {b : List Byte} (h : sumBytes b % 65536 = 0) : pchkf b = .error .zeroChecksum :=
  if_pos ((ofNat_sumBytes_eq_zero_iff b).mpr h)

/-- On any other accumulator PCHKF is its complement to 65536 (R102). -/
theorem pchkf_of_sum_ne_zero {b : List Byte} (h : sumBytes b % 65536 ≠ 0) :
    pchkf b = .ok (BitVec.ofNat 16 (65536 - sumBytes b % 65536)) := by
  have hacc : pchkf b = .ok (~~~BitVec.ofNat 16 (sumBytes b) + 1#16) :=
    if_neg (mt (ofNat_sumBytes_eq_zero_iff b).mp h)
  rw [hacc, ← BitVec.neg_eq_not_add]
  rfl

/-- PCHKF reads the bytes through their sum mod 65536 only (R102). -/
theorem pchkf_eq (b : List Byte) :
    pchkf b = if sumBytes b % 65536 = 0 then .error .zeroChecksum
      else .ok (BitVec.ofNat 16 (65536 - sumBytes b % 65536)) := by
  split
  · next h => exact pchkf_of_sum_eq_zero h
  · next h => exact pchkf_of_sum_ne_zero h

/-- PCHKF fails exactly on a byte sum of 0 mod 65536 (R103). -/
theorem exists_pchkf_error_iff (b : List Byte) : (∃ e, pchkf b = .error e) ↔ sumBytes b % 65536 = 0 := by
  refine ⟨fun ⟨e, he⟩ => ?_, fun h => ⟨_, pchkf_of_sum_eq_zero h⟩⟩
  by_contra h
  rw [pchkf_of_sum_ne_zero h] at he
  cases he

/-- A payload checksum is 65536 less the byte sum mod 65536, and that sum is not zero (R102). -/
theorem toNat_of_pchkf_ok {b : List Byte} {c : Half} (h : pchkf b = .ok c) :
    sumBytes b % 65536 ≠ 0 ∧ c.toNat = 65536 - sumBytes b % 65536 := by
  rw [pchkf_eq] at h
  split at h
  · cases h
  · next hne =>
    obtain rfl := Except.ok.inj h
    refine ⟨hne, ?_⟩
    rw [BitVec.toNat_ofNat]
    omega

/-- What a generator's transaction answers: the checksum, zero-extended, or the error (R104, R105). -/
def checksumResponse {w : Nat} : Except ProtocolError (BitVec w) → Response
  | .error e => ⟨e.code, 0#32, []⟩
  | .ok c => ⟨0x0#4, c.setWidth 32, []⟩

/-- LCHK with FAULT = 0 appends its response and changes nothing else (R104). -/
theorem exec_lchk_of_clear (len : Half) {s : State} (hclear : s.fault = false) :
    exec (.lchk len) s = .next { s with out := s.out ++ [.response (checksumResponse (lengthChecksum len))] } := by
  rw [exec, execLchk, unlessFaulted_of_clear _ hclear]
  cases lengthChecksum len with
  | error e => rfl
  | ok c => rfl

/-- PCHK with FAULT = 0 appends its response and changes nothing else (R105). -/
theorem exec_pchk_of_clear (data : List Byte) {s : State} (hclear : s.fault = false) :
    exec (.pchk data) s = .next { s with out := s.out ++ [.response (checksumResponse (pchkf data))] } := by
  rw [exec, execPchk, unlessFaulted_of_clear _ hclear]
  cases pchkf data with
  | error e => rfl
  | ok c => rfl

end Sys2Proof.Machine
end

section
/-! The laws of the two checksums and their transactions (spec/40_checksum.md R101, R103 to R105). -/

namespace Sys2Proof.Machine

/-- Settles O25: the laws come from the checksum being the negated nibble sum; the table's values are evaluated. -/
theorem lengthChecksumLaws : Obligations.LengthChecksumLaws :=
  ⟨nibbleSum_add_lchkf, lchkf_eq_zero_iff, fun _ _ => lchkf_congr, by decide⟩

/-- Settles O27: every clause is read off the byte sum mod 65536, which is all that PCHKF reads. -/
theorem payloadChecksumLaws : Obligations.PayloadChecksumLaws := by
  refine ⟨fun b c hc => ?_, exists_pchkf_error_iff, fun b e => pchkf_error, fun n => ?_, ?_, fun b b' hperm => ?_⟩
  · obtain ⟨hne, hval⟩ := toNat_of_pchkf_ok hc
    omega
  · exact pchkf_of_sum_eq_zero (by simp [sumBytes_replicate])
  · exact pchkf_of_sum_eq_zero (by rw [sumBytes_replicate]; rfl)
  · rw [pchkf_eq, pchkf_eq, sumBytes_eq_of_perm hperm]

/-- Settles O26: up to 0xFFF the answer is the checksum of the low twelve bits, whose nibbles are those of LEN. -/
theorem lchkAnswersTheLengthChecksum : Obligations.LchkAnswersTheLengthChecksum := by
  intro len s hclear
  rw [exec_lchk_of_clear len hclear]
  split
  · next hle =>
    have hval : ((lchkf (len.extractLsb' 0 12)).setWidth 32).toNat = (lchkf (len.extractLsb' 0 12)).toNat :=
      BitVec.toNat_setWidth_of_le (by decide)
    refine ⟨(lchkf (len.extractLsb' 0 12)).setWidth 32, ?_, ?_, ?_⟩
    · rw [lengthChecksum_of_le hle]
      rfl
    · rw [hval]
      exact (lchkf _).isLt
    · rw [hval]
      have hsum := nibbleSum_add_lchkf (len.extractLsb' 0 12)
      rwa [nibbleSum_lowTwelve] at hsum
  · next hgt =>
    rw [lengthChecksum_of_gt (Nat.not_le.mp hgt)]
    rfl

/-- Settles O28: the two outcomes of PCHKF, the checksum zero-extended to 32 bits. -/
theorem pchkAnswersThePayloadChecksum : Obligations.PchkAnswersThePayloadChecksum := by
  intro data s hclear
  rw [exec_pchk_of_clear data hclear]
  split
  · next hzero =>
    rw [pchkf_of_sum_eq_zero hzero]
    rfl
  · next hne =>
    rw [pchkf_of_sum_ne_zero hne, checksumResponse, BitVec.setWidth_ofNat_of_le_of_lt (by decide) (by omega)]

end Sys2Proof.Machine
end

section
/-! The encode transactions: the frame of ENCODE as a term, and what ENC, ENCI and the CMD rows answer with it
(spec/41_encoder.md R124, R126 to R131). -/

namespace Sys2Proof.Machine

/-- The frame ENCODE returns, field by field (R65). -/
def encodedFrame (p : Params) (cfg : Word) (cid2 : Byte) (info : Option Half) : List Byte :=
  [soiByte (cfgSoiSel cfg)] ++ frameBody p cfg cid2 info ++
    checksumText (frameChecksum p cfg cid2 info) (cfgChkDbl cfg) ++ [Config.eoi]

theorem encodeFrame_eq_ok (p : Params) (cfg : Word) (cid2 : Byte) (info : Option Half) :
    encodeFrame p cfg cid2 info = .ok (encodedFrame p cfg cid2 info) :=
  encodeFrame_eq p cfg cid2 info

/-- The frame has the length of the table (R72). -/
theorem length_encodedFrame (p : Params) (cfg : Word) (cid2 : Byte) (info : Option Half) :
    (encodedFrame p cfg cid2 info).length =
      10 + (fieldWidths cfg info).1 + (fieldWidths cfg info).2.1 + (fieldWidths cfg info).2.2 := by
  obtain ⟨hlen, -⟩ := fieldsSitAtTheirOffsets p cfg cid2 info _ (encodeFrame_eq_ok p cfg cid2 info)
  exact hlen

/-- Without INFO the frame has 18 bytes, and 22 with CHK_DBL (R129). -/
theorem length_encodedFrame_none (p : Params) (cfg : Word) (cid2 : Byte) :
    (encodedFrame p cfg cid2 none).length = if cfgChkDbl cfg = 1#1 then 22 else 18 := by
  rw [length_encodedFrame]
  by_cases hchk : cfgChkDbl cfg = 1#1 <;> simp [fieldWidths, hchk]

/-- With INFO the frame has 22 bytes, 8 more with LEN_DBL and 4 more with CHK_DBL (R130). -/
theorem length_encodedFrame_some (p : Params) (cfg : Word) (cid2 : Byte) (v : Half) :
    (encodedFrame p cfg cid2 (some v)).length =
      (if cfgLenDbl cfg = 1#1 then 30 else 22) + (if cfgChkDbl cfg = 1#1 then 4 else 0) := by
  rw [length_encodedFrame]
  by_cases hlen : cfgLenDbl cfg = 1#1 <;> by_cases hchk : cfgChkDbl cfg = 1#1 <;> simp [fieldWidths, hlen, hchk]

/-- With FAULT = 0 an encode transaction emits its frame, answers OK with the length and changes nothing else (R128, R131). -/
theorem encodeTransaction_of_clear (p : Params) (cid2 : Byte) (info : Option Half) {s : State} (hclear : s.fault = false) :
    encodeTransaction p cid2 info s =
      { s with out := s.out ++ [.tx (encodedFrame p s.cfg cid2 info),
        .response ⟨0x0#4, BitVec.ofNat 32 (encodedFrame p s.cfg cid2 info).length, []⟩] } := by
  rw [encodeTransaction, unlessFaulted_of_clear _ hclear, encodeFrame_eq_ok]
  simp [completeEncode, respond_eq, Status.code, emitTx, State.emit]

/-- ENC, ENCI and the six CMD instructions are encode transactions (R129, R130, 43_commands.md R180). -/
theorem exec_eq_encodeTransaction {i : Instr}
    (hi : (∃ c, i = .enc c) ∨ (∃ c v, i = .enci c v) ∨
      i ∈ [.cmdTime, .cmdPver, .cmdDaddr, .cmdManuf, .cmdAnalog0, .cmdAnalog1]) :
    ∃ cid2 info, ∀ s, exec i s = .next (encodeTransaction Config.params cid2 info s) := by
  rcases hi with ⟨c, rfl⟩ | ⟨c, v, rfl⟩ | hcmd
  · exact ⟨c, none, fun _ => rfl⟩
  · exact ⟨c, some v, fun _ => rfl⟩
  · simp only [List.mem_cons, List.not_mem_nil, or_false] at hcmd
    rcases hcmd with rfl | rfl | rfl | rfl | rfl | rfl <;> exact ⟨_, _, fun _ => rfl⟩

/-- An encode transaction answers OK, or CAPACITY_FAULT on a faulted block, and never an encode error (R131). -/
theorem encodeTransaction_status {p : Params} {cid2 : Byte} {info : Option Half} {s : State} {emitted : List Output}
    {resp : Response} (hout : (encodeTransaction p cid2 info s).out = s.out ++ emitted ++ [.response resp]) :
    resp.status = 0x0#4 ∨ resp.status = 0x7#4 := by
  cases hfault : s.fault with
  | false =>
    rw [encodeTransaction_of_clear p cid2 info hfault] at hout
    obtain rfl : _ = resp := by simpa using congrArg List.getLast? hout
    exact .inl rfl
  | true =>
    rw [encodeTransaction, unlessFaulted_of_fault _ hfault] at hout
    obtain rfl : _ = resp := by simpa using congrArg List.getLast? hout
    exact .inr rfl

/-- Settles O31: the body is hex text of at most 24 bytes, so each check of ENCODE passes, and the two statuses that are left
are no encode error. -/
theorem encodingNeverFails : Obligations.EncodingNeverFails := by
  refine ⟨fun p cfg cid2 info => ⟨⟨_, encodeFrame_eq_ok p cfg cid2 info⟩, all_frameBody p cfg cid2 info,
    length_frameBody p cfg cid2 info, sumBytes_frameBody_bounds p cfg cid2 info⟩, ?_⟩
  intro i s t emitted resp hi hexec hout
  obtain ⟨cid2, info, hencode⟩ := exec_eq_encodeTransaction hi
  obtain rfl := Host.Outcome.next.inj ((hencode s).symm.trans hexec)
  rcases encodeTransaction_status hout with hok | hfault
  · rw [hok]
    decide
  · rw [hfault]
    decide

/-- Settles O37, by `encodeTransaction_of_clear` without INFO. -/
theorem encTransmitsItsFrame : Obligations.EncTransmitsItsFrame :=
  fun cid2 s hclear => ⟨encodedFrame Config.params s.cfg cid2 none, encodeFrame_eq_ok _ _ _ _,
    length_encodedFrame_none _ _ _, congrArg Host.Outcome.next (encodeTransaction_of_clear _ _ _ hclear)⟩

/-- Settles O38, by `encodeTransaction_of_clear` with INFO. -/
theorem enciTransmitsItsFrame : Obligations.EnciTransmitsItsFrame :=
  fun cid2 info s hclear => ⟨encodedFrame Config.params s.cfg cid2 (some info), encodeFrame_eq_ok _ _ _ _,
    length_encodedFrame_some _ _ _ _, congrArg Host.Outcome.next (encodeTransaction_of_clear _ _ _ hclear)⟩

/-- Settles O40: each check is the error of its generator, and a failed encode is that error's response alone. -/
theorem encoderChecksFailWithoutEffect : Obligations.EncoderChecksFailWithoutEffect := by
  refine ⟨fun l d hlong => ?_, fun d => rfl, fun body d hne hsum => ?_, fun e s => raise_eq e s⟩
  · rw [lengthText, lengthChecksum_of_gt hlong]
  · rw [checksumField, pchkf_of_sum_eq_zero hsum, if_neg (mt List.length_eq_zero_iff.mp hne)]

end Sys2Proof.Machine
end

section
/-! Which registers an instruction reads: all but RXPUSH and RXPEEK read CFG and FAULT alone (spec/10_state.md R29,
spec/41_encoder.md R120). -/

namespace Sys2Proof.Machine

/-- CFGR with FAULT = 0 answers the register as it reads and changes nothing (44_control.md R191). -/
theorem exec_cfgr_of_clear {s : State} (hclear : s.fault = false) :
    exec .cfgr s = .next { s with out := s.out ++ [.response ⟨0x0#4, cfgRead s.cfg, []⟩] } :=
  congrArg Host.Outcome.next (unlessFaulted_of_clear _ hclear)

/-- With FAULT = 0 the instruction writes at most CFG, and what it writes there and emits it reads from CFG alone. -/
def ReadsCfgAlone (i : Instr) : Prop :=
  ∃ (write : Word → Word) (emitted : Word → List Output), ∀ s : State, s.fault = false →
    exec i s = .next { s with cfg := write s.cfg, out := s.out ++ emitted s.cfg }

/-- An encode transaction emits the frame that CFG determines (R120). -/
theorem readsCfgAlone_of_encode {i : Instr} {cid2 : Byte} {info : Option Half}
    (h : ∀ s, exec i s = .next (encodeTransaction Config.params cid2 info s)) : ReadsCfgAlone i :=
  ⟨id, fun cfg => [.tx (encodedFrame Config.params cfg cid2 info),
      .response ⟨0x0#4, BitVec.ofNat 32 (encodedFrame Config.params cfg cid2 info).length, []⟩],
    fun s hclear => (h s).trans (congrArg _ (encodeTransaction_of_clear _ _ _ hclear))⟩

/-- Every instruction but RXPUSH and RXPEEK reads CFG and FAULT alone (R29, R120). -/
theorem readsCfgAlone_of_not_receiver {i : Instr} (hpeek : i ≠ .rxpeek) (hpush : ∀ c, i ≠ .rxpush c) :
    ReadsCfgAlone i := by
  cases i with
  | rxpeek => exact absurd rfl hpeek
  | rxpush c => exact absurd rfl (hpush c)
  | cfgw a b c d =>
    exact ⟨fun cfg => cfgWithFields cfg a b c d, fun _ => [.response ⟨0x0#4, 0#32, []⟩], fun s => exec_cfgw_of_clear a b c d⟩
  | cfgr => exact ⟨id, fun cfg => [.response ⟨0x0#4, cfgRead cfg, []⟩], fun s => exec_cfgr_of_clear⟩
  | lchk len => exact ⟨id, fun _ => [.response (checksumResponse (lengthChecksum len))], fun s => exec_lchk_of_clear len⟩
  | pchk data => exact ⟨id, fun _ => [.response (checksumResponse (pchkf data))], fun s => exec_pchk_of_clear data⟩
  | enc cid2 => exact readsCfgAlone_of_encode fun _ => rfl
  | enci cid2 info => exact readsCfgAlone_of_encode fun _ => rfl
  | cmdTime => exact readsCfgAlone_of_encode fun _ => rfl
  | cmdPver => exact readsCfgAlone_of_encode fun _ => rfl
  | cmdDaddr => exact readsCfgAlone_of_encode fun _ => rfl
  | cmdManuf => exact readsCfgAlone_of_encode fun _ => rfl
  | cmdAnalog0 => exact readsCfgAlone_of_encode fun _ => rfl
  | cmdAnalog1 => exact readsCfgAlone_of_encode fun _ => rfl

/-- Settles O51: a faulted block answers every instruction alike, and a clear one reads no RXBUF by
`readsCfgAlone_of_not_receiver`. -/
theorem onlyTheReceiverReadsRxbuf : Obligations.OnlyTheReceiverReadsRxbuf := by
  intro i s t v hpeek hpush hexec
  rcases Bool.eq_false_or_eq_true s.fault with hfault | hclear
  · obtain rfl := Host.Outcome.next.inj ((exec_of_fault i hfault).symm.trans hexec)
    exact exec_of_fault i hfault
  · obtain ⟨write, emitted, heq⟩ := readsCfgAlone_of_not_receiver hpeek hpush
    obtain rfl := Host.Outcome.next.inj ((heq s hclear).symm.trans hexec)
    exact heq { s with rxbuf := v } hclear

end Sys2Proof.Machine
end

section
/-! What an emitted frame shows of the version, and what VALIDATE says of a frame and of its first bytes (spec/41_encoder.md R132,
R133; spec/90_conflicts.md C3). -/

namespace Sys2Proof.Machine

/-- The character of a version's high nibble is the version itself at 0x33 alone (C3). -/
theorem hexChar_high_eq_iff : ∀ v : Byte, hexChar (v.extractLsb' 4 4) = v ↔ v = 0x33#8 := by decide

/-- A frame's checksum brings the body sum to 0 mod 65536 (R102, R132). -/
theorem sumBytes_add_frameChecksum (p : Params) (cfg : Word) (cid2 : Byte) (info : Option Half) :
    (sumBytes (frameBody p cfg cid2 info) + (frameChecksum p cfg cid2 info).toNat) % 65536 = 0 := by
  obtain ⟨hlow, hhigh⟩ := sumBytes_frameBody_bounds p cfg cid2 info
  rw [frameChecksum, BitVec.toNat_ofNat]
  omega

/-- What stands in an initial part stands at the same index in the whole. -/
theorem getElem?_of_prefix {held f : List Byte} (hpre : held <+: f) {k : Nat} {b : Byte} (hk : held[k]? = some b) :
    f[k]? = some b := by
  obtain ⟨hlt, rfl⟩ := List.getElem?_eq_some_iff.mp hk
  exact List.prefix_iff_getElem?.mp hpre k hlt

section
variable {p : Params} {cfg : Word} {cid2 : Byte} {info : Option Half} {f : List Byte}

/-- Byte 0 of a frame is the SOI value CFG.SOI_SEL selects (R132). -/
theorem getElem?_zero_of_encodeFrame_ok (h : encodeFrame p cfg cid2 info = .ok f) :
    f[0]? = some (soiByte (cfgSoiSel cfg)) := by
  rw [eq_of_encodeFrame_ok h]
  rfl

/-- Byte 1 of a frame is the character of the version's high nibble (R132). -/
theorem getElem?_one_of_encodeFrame_ok (h : encodeFrame p cfg cid2 info = .ok f) :
    f[1]? = some (hexChar (p.protoVer.extractLsb' 4 4)) := by
  rw [eq_of_encodeFrame_ok h]
  rfl

/-- The last byte of a frame is EOI (R132). -/
theorem getLast?_of_encodeFrame_ok (h : encodeFrame p cfg cid2 info = .ok f) : f.getLast? = some Config.eoi := by
  rw [eq_of_encodeFrame_ok h, List.getLast?_concat]

/-- Byte 1 of a frame is the raw version exactly at 0x33 (C3). -/
theorem getElem?_one_eq_protoVer_iff (h : encodeFrame p cfg cid2 info = .ok f) :
    f[1]? = some p.protoVer ↔ p.protoVer = 0x33#8 := by
  rw [getElem?_one_of_encodeFrame_ok h, Option.some_inj]
  exact hexChar_high_eq_iff p.protoVer

/-- Every frame has the three bytes that VALIDATE asks for (R88, R150). -/
theorem three_le_length_of_encodeFrame_ok (h : encodeFrame p cfg cid2 info = .ok f) : 3 ≤ f.length := by
  rw [encodeFrame_eq_ok] at h
  rw [← Except.ok.inj h, length_encodedFrame]
  omega

/-- At version 0x33 VALIDATE accepts every encoded frame (R133). -/
theorem validate_encoded_accept (h : encodeFrame p cfg cid2 info = .ok f) (hver : p.protoVer = 0x33#8) :
    validate p.protoVer f = .accept := by
  refine (validate_eq_accept_iff _ _).mpr ⟨three_le_length_of_encodeFrame_ok h, ?_, ?_, getLast?_of_encodeFrame_ok h⟩
  · rw [getElem?_zero_of_encodeFrame_ok h]
    exact isSoi_soiByte _
  · exact (getElem?_one_eq_protoVer_iff h).mpr hver

/-- At any other version VALIDATE stops at byte 1 of an encoded frame (R133, R150). -/
theorem validate_encoded_reject (h : encodeFrame p cfg cid2 info = .ok f) (hver : p.protoVer ≠ 0x33#8) :
    validate p.protoVer f = .reject .invalidVersion := by
  have hlen : ¬ f.length < 3 := Nat.not_lt.mpr (three_le_length_of_encodeFrame_ok h)
  have hbyte : f[1]? ≠ some p.protoVer := mt (getElem?_one_eq_protoVer_iff h).mp hver
  simp [validate, hlen, hbyte, getElem?_zero_of_encodeFrame_ok h, isSoi_soiByte]

/-- At any version but 0x33 no initial part of an encoded frame is accepted, since an accepted buffer has the raw version at
byte 1 (R133). -/
theorem validate_prefix_ne_accept_of_version (h : encodeFrame p cfg cid2 info = .ok f) (hver : p.protoVer ≠ 0x33#8)
    {held : List Byte} (hpre : held <+: f) : validate p.protoVer held ≠ .accept := by
  intro hacc
  obtain ⟨-, -, hbyte, -⟩ := (validate_eq_accept_iff _ _).mp hacc
  exact hver ((getElem?_one_eq_protoVer_iff h).mp (getElem?_of_prefix hpre hbyte))

/-- At no version is a proper initial part of an encoded frame accepted, since its last byte is an inner byte of the frame
and so no EOI (R73, R133). -/
theorem validate_proper_prefix_ne_accept (h : encodeFrame p cfg cid2 info = .ok f) {held : List Byte} (hpre : held <+: f)
    (hne : held ≠ f) : validate p.protoVer held ≠ .accept := by
  intro hacc
  obtain ⟨hlen, -, -, hlast⟩ := (validate_eq_accept_iff _ _).mp hacc
  have hlt : held.length < f.length := Nat.lt_of_le_of_ne hpre.length_le (mt hpre.eq_of_length hne)
  rw [List.getLast?_eq_getElem?] at hlast
  obtain ⟨-, hnoEoi, -⟩ := innerBytesAreHexCharacters p cfg cid2 info f h (held.length - 1) Config.eoi
    (by omega) (by omega) (getElem?_of_prefix hpre hlast)
  exact hnoEoi rfl

end

/-- Settles O34: the bytes are read off the field sequence, and C3 is `getElem?_one_eq_protoVer_iff`. -/
theorem emittedFramesHaveTheStatedProperties : Obligations.EmittedFramesHaveTheStatedProperties := by
  intro p cfg cid2 info f hf
  refine ⟨getElem?_zero_of_encodeFrame_ok hf, getElem?_one_of_encodeFrame_ok hf, ?_, ?_, getLast?_of_encodeFrame_ok hf, ?_,
    ⟨frameChecksum p cfg cid2 info, sumBytes_add_frameChecksum p cfg cid2 info, eq_of_encodeFrame_ok hf⟩,
    getElem?_one_eq_protoVer_iff hf⟩
  · intro hver
    rw [getElem?_one_of_encodeFrame_ok hf, hver]
    rfl
  · rw [eq_of_encodeFrame_ok hf]
    rfl
  · rintro rfl
    rw [drop_nine_of_encodeFrame_ok hf]
    rfl

end Sys2Proof.Machine
end

section
/-! Pushing a byte sequence in chunks: what is held while no initial part is accepted, and the one delivery when the whole
sequence is (spec/41_encoder.md R133; spec/42_receiver.md R152 to R156, R159). -/

namespace Sys2Proof.Machine

/-- Pushing two lists of chunks is pushing the first and then the second (R236). -/
theorem pushAll_append (p : Params) (cs ds : List (List Byte)) (s : State) :
    pushAll p (cs ++ ds) s = pushAll p ds (pushAll p cs s) := by
  induction cs generalizing s with
  | nil => rfl
  | cons c cs ih => exact ih _

/-- A log of responses holds no delivered frame. -/
@[simp] theorem rxfFrames_map_response (rs : List Response) : rxfFrames (rs.map Output.response) = [] := by
  induction rs with
  | nil => rfl
  | cons r rs ih => exact ih

/-- With FAULT = 0, an RXPUSH that fits and completes no frame appends its chunk and answers, and nothing else (R153, R154). -/
theorem pushChunk_of_not_accept {p : Params} {c : List Byte} {s : State} (hclear : s.fault = false)
    (hfit : fitsCapacity p (s.rxbuf ++ c).length = true) (hv : validate p.protoVer (s.rxbuf ++ c) ≠ .accept) :
    ∃ r : Response, pushChunk p c s = { s with rxbuf := s.rxbuf ++ c, out := s.out ++ [.response r] } := by
  rw [List.length_append] at hfit
  rcases pushChunk_cases p c s with ⟨h, -⟩ | ⟨-, h, -⟩ | ⟨-, -, hbuf, hc, h⟩ | ⟨-, -, -, e, -, h⟩ | ⟨-, -, h, -⟩
  case inl => simp [hclear] at h
  case inr.inl => simp [hfit] at h
  case inr.inr.inl => exact ⟨_, by rw [h, hbuf, hc, List.append_nil]⟩
  case inr.inr.inr.inl => exact ⟨_, h⟩
  case inr.inr.inr.inr => exact absurd h hv

/-- Chunks that fit and among whose buffers VALIDATE accepts none are all kept in order, and only responses are emitted
(R154). -/
theorem pushAll_of_no_prefix_accepted {p : Params} {f : List Byte} (hfit : fitsCapacity p f.length = true)
    (hpre : ∀ held, held <+: f → validate p.protoVer held ≠ .accept) (chunks : List (List Byte)) (s : State)
    (hclear : s.fault = false) (hf : s.rxbuf ++ chunks.flatten <+: f) :
    ∃ rs : List Response, pushAll p chunks s =
      { s with rxbuf := s.rxbuf ++ chunks.flatten, out := s.out ++ rs.map Output.response } := by
  induction chunks generalizing s with
  | nil => exact ⟨[], by simp [pushAll]⟩
  | cons c cs ih =>
    rw [List.flatten_cons, ← List.append_assoc] at hf ⊢
    have hheld : s.rxbuf ++ c <+: f := (List.prefix_append _ _).trans hf
    obtain ⟨r, hpush⟩ := pushChunk_of_not_accept hclear (fitsCapacity_mono hheld.length_le hfit) (hpre _ hheld)
    obtain ⟨rs, hrest⟩ := ih (pushChunk p c s) (by rw [hpush]; exact hclear) (by rw [hpush]; exact hf)
    refine ⟨r :: rs, ?_⟩
    rw [pushAll, hrest, hpush]
    simp

/-- Chunks that complete an accepted sequence no proper initial part of which is accepted deliver it once and leave RXBUF empty,
whatever empty chunks follow (R156, R153). -/
theorem pushAll_delivers_once {p : Params} {f : List Byte} (hfit : fitsCapacity p f.length = true)
    (hacc : validate p.protoVer f = .accept)
    (hpre : ∀ held, held <+: f → held ≠ f → validate p.protoVer held ≠ .accept) (chunks : List (List Byte)) (s : State)
    (hclear : s.fault = false) (hf : s.rxbuf ++ chunks.flatten = f) (hshort : s.rxbuf ≠ f) :
    rxfFrames (pushAll p chunks s).out = rxfFrames s.out ++ [f] ∧ (pushAll p chunks s).rxbuf = [] := by
  induction chunks generalizing s with
  | nil => exact absurd (by simpa using hf) hshort
  | cons c cs ih =>
    rw [List.flatten_cons, ← List.append_assoc] at hf
    rw [pushAll]
    have hheld : s.rxbuf ++ c <+: f := ⟨cs.flatten, hf⟩
    have hfitHeld := fitsCapacity_mono hheld.length_le hfit
    by_cases hwhole : s.rxbuf ++ c = f
    · have hrest : cs.flatten = [] := List.append_right_eq_self.mp (hf.trans hwhole.symm)
      have hpush := pushChunk_of_accept hclear (by rwa [List.length_append] at hfitHeld) (hwhole ▸ hacc)
      obtain ⟨rs, hidle⟩ := pushAll_of_no_prefix_accepted (f := []) (fitsCapacity_zero p)
        (fun held hnil => by rw [List.prefix_nil.mp hnil, validate_nil]; simp) cs (pushChunk p c s)
        (by rw [hpush]; exact hclear) (by rw [hpush, hrest]; exact List.prefix_refl [])
      rw [hidle, hpush, hrest, hwhole]
      simp
    · obtain ⟨r, hpush⟩ := pushChunk_of_not_accept hclear hfitHeld (hpre _ hheld hwhole)
      obtain ⟨hframes, hempty⟩ := ih (pushChunk p c s) (by rw [hpush]; exact hclear) (by rw [hpush]; exact hf)
        (by rw [hpush]; exact hwhole)
      refine ⟨?_, hempty⟩
      rw [hframes, hpush]
      simp

/-- The last chunk that is not empty, of a frame at another version than 0x33, is answered INVALID_VERSION (R133). -/
theorem pushAll_encoded_last_invalid {p : Params} {cfg : Word} {cid2 : Byte} {info : Option Half} {last : List Byte}
    {chunks : List (List Byte)} {s : State} (hencode : encodeFrame p cfg cid2 info = .ok (chunks.flatten ++ last))
    (hlast : last ≠ []) (hver : p.protoVer ≠ 0x33#8) (hclear : s.fault = false) (hempty : s.rxbuf = [])
    (hfit : fitsCapacity p (chunks.flatten ++ last).length = true) :
    ∃ before, (pushAll p (chunks ++ [last]) s).out = before ++ [.response ⟨0x5#4, 0#32, []⟩] := by
  obtain ⟨rs, hkept⟩ := pushAll_of_no_prefix_accepted hfit
    (fun held => validate_prefix_ne_accept_of_version hencode hver) chunks s hclear
    (by rw [hempty]; exact List.prefix_append _ _)
  rw [hempty, List.nil_append] at hkept
  have hpush := pushChunk_of_reject (p := p) (c := last) (s := pushAll p chunks s) (e := .invalidVersion)
    (by rw [hkept]; exact hclear) (by rw [hkept]; rwa [List.length_append] at hfit) (by simp [hlast])
    (by rw [hkept]; exact validate_encoded_reject hencode hver)
  exact ⟨_, by rw [pushAll_append, pushAll, pushAll, hpush]; rfl⟩

/-- Settles O41: at 0x33 the frame is accepted and no proper initial part of it is; at any other version no initial part
is, and the whole frame is rejected at byte 1. -/
theorem encodedFramesAreDeliveredOnlyAtVersion33 : Obligations.EncodedFramesAreDeliveredOnlyAtVersion33 := by
  refine ⟨hexChar_high_eq_iff, ?_, ?_⟩
  · intro p cfg cid2 info f chunks s hencode hflat hclear hempty hfit
    have hsum : s.rxbuf ++ chunks.flatten = f := by rw [hempty, hflat, List.nil_append]
    split
    · next hver =>
      have hshort : s.rxbuf ≠ f := by
        rintro rfl
        simpa [hempty] using three_le_length_of_encodeFrame_ok hencode
      exact pushAll_delivers_once hfit (validate_encoded_accept hencode hver)
        (fun held => validate_proper_prefix_ne_accept hencode) chunks s hclear hsum hshort
    · next hver =>
      obtain ⟨rs, hkept⟩ := pushAll_of_no_prefix_accepted hfit
        (fun held => validate_prefix_ne_accept_of_version hencode hver) chunks s hclear (by rw [hsum])
      rw [hkept, hsum]
      simp
  · rintro p cfg cid2 info f last chunks s hencode rfl hlast hver hclear hempty hfit
    exact pushAll_encoded_last_invalid hencode hlast (by rw [hver]; decide) hclear hempty hfit

end Sys2Proof.Machine
end

section
/-! What VALIDATE decides, case by case (spec/42_receiver.md R150, R157). -/

namespace Sys2Proof.Machine

/-- The SOI values are 0x3E and 0x7E (R157). -/
theorem isSoi_iff (b : Byte) : isSoi b = true ↔ b = 0x3E#8 ∨ b = 0x7E#8 := by
  simp [isSoi, Config.soiA, Config.soiB]

/-- Check 1: fewer than three bytes are malformed (R150). -/
theorem validate_of_short {v : Byte} {buf : List Byte} (hshort : buf.length < 3) : validate v buf = .reject .malformed :=
  if_pos hshort

/-- Check 2: a buffer without a SOI value at byte 0 is malformed, since a short one is so too (R150). -/
theorem validate_of_not_soi {v : Byte} {buf : List Byte} (hsoi : buf[0]?.any isSoi = false) :
    validate v buf = .reject .malformed := by
  unfold validate
  split
  · rfl
  · exact if_pos (by simp [hsoi])

/-- Check 3: behind a SOI value, another byte 1 than the version is an invalid version (R150). -/
theorem validate_of_version {v : Byte} {buf : List Byte} (hlen : 3 ≤ buf.length) (hsoi : buf[0]?.any isSoi = true)
    (hver : buf[1]? ≠ some v) : validate v buf = .reject .invalidVersion := by
  simp only [validate, Nat.not_lt.mpr hlen, hsoi, not_true_eq_false, if_false, if_pos hver]

/-- Check 4: behind a SOI value and the version, the last byte decides (R150). -/
theorem validate_of_header {v : Byte} {buf : List Byte} (hlen : 3 ≤ buf.length) (hsoi : buf[0]?.any isSoi = true)
    (hver : buf[1]? = some v) :
    validate v buf = if buf.getLast? ≠ some Config.eoi then .reject .malformed else .accept := by
  simp only [validate, Nat.not_lt.mpr hlen, hsoi, hver, not_true_eq_false, ne_eq, if_false]

/-- VALIDATE on a buffer of at least three bytes, taken apart into byte 0, byte 1 and the last byte (R150). -/
theorem validate_cons_cons_concat (v b0 b1 : Byte) (mid : List Byte) (z : Byte) :
    validate v (b0 :: b1 :: (mid ++ [z])) =
      if b0 ≠ 0x3E#8 ∧ b0 ≠ 0x7E#8 then .reject .malformed
      else if b1 ≠ v then .reject .invalidVersion
      else if z ≠ 0x0D#8 then .reject .malformed
      else .accept := by
  have hlen : 3 ≤ (b0 :: b1 :: (mid ++ [z])).length := by simp
  have hlast : (b0 :: b1 :: (mid ++ [z])).getLast? = some z := List.getLast?_concat (l := b0 :: b1 :: mid)
  by_cases hsoi : isSoi b0 = true
  · have hbyte : ¬ (b0 ≠ 0x3E#8 ∧ b0 ≠ 0x7E#8) := by
      rw [← not_or, ← isSoi_iff, not_not]
      exact hsoi
    rw [if_neg hbyte]
    by_cases hver : b1 = v
    · rw [validate_of_header hlen hsoi (congrArg some hver), hlast, if_neg (not_not.mpr hver)]
      simp [Config.eoi]
    · rw [validate_of_version hlen hsoi (by simpa using hver), if_pos hver]
  · have hbyte : b0 ≠ 0x3E#8 ∧ b0 ≠ 0x7E#8 := by rwa [← not_or, ← isSoi_iff]
    rw [if_pos hbyte]
    exact validate_of_not_soi (by simpa using hsoi)

/-- VALIDATE reads the length, byte 0, byte 1 and the last byte only (R150). -/
theorem validate_congr {v : Byte} {buf buf' : List Byte} (hlen : buf.length = buf'.length) (hzero : buf[0]? = buf'[0]?)
    (hone : buf[1]? = buf'[1]?) (hlast : buf.getLast? = buf'.getLast?) : validate v buf = validate v buf' := by
  simp only [validate, hlen, hzero, hone, hlast]

/-- The two errors VALIDATE answers (R150). -/
theorem error_of_validate_reject {v : Byte} {buf : List Byte} {e : ProtocolError} (h : validate v buf = .reject e) :
    e = .malformed ∨ e = .invalidVersion := by
  by_cases hlen : buf.length < 3
  · rw [validate_of_short hlen] at h
    exact .inl (Verdict.reject.inj h).symm
  rw [Nat.not_lt] at hlen
  cases hsoi : buf[0]?.any isSoi with
  | false =>
    rw [validate_of_not_soi hsoi] at h
    exact .inl (Verdict.reject.inj h).symm
  | true =>
    by_cases hver : buf[1]? = some v
    · rw [validate_of_header hlen hsoi hver] at h
      split at h
      · exact .inl (Verdict.reject.inj h).symm
      · cases h
    · rw [validate_of_version hlen hsoi hver] at h
      exact .inr (Verdict.reject.inj h).symm

/-- Settles O42: check 1, the three later checks, and `validate_congr`. -/
theorem validateDecidesByTheFourChecksInOrder : Obligations.ValidateDecidesByTheFourChecksInOrder :=
  ⟨fun _ _ => validate_of_short, validate_cons_cons_concat, fun _ _ _ => validate_congr⟩

/-- One accepted frame behind another is accepted as one frame: the first gives the header, the second the last byte
(R150, R159). -/
theorem validate_append_accept {v : Byte} {g g' : List Byte} (hg : validate v g = .accept) (hg' : validate v g' = .accept) :
    validate v (g ++ g') = .accept := by
  obtain ⟨hlen, hsoi, hver, -⟩ := (validate_eq_accept_iff v g).mp hg
  obtain ⟨-, -, -, hlast⟩ := (validate_eq_accept_iff v g').mp hg'
  refine (validate_eq_accept_iff v _).mpr ⟨?_, ?_, ?_, ?_⟩
  · rw [List.length_append]
    omega
  · rwa [List.getElem?_append_left (by omega)]
  · rwa [List.getElem?_append_left (by omega)]
  · rw [List.getLast?_append, hlast, Option.some_or]

/-- A proper initial part of an accepted frame without an inner EOI is malformed: short, or with the frame's header and no EOI
at its end (R150, R159 (a)). -/
theorem validate_proper_prefix_malformed {v : Byte} {g held : List Byte} (hg : validate v g = .accept)
    (hinner : ∀ k, 2 ≤ k → k + 1 < g.length → g[k]? ≠ some 0x0D#8) (hpre : held <+: g) (hlt : held.length < g.length) :
    validate v held = .reject .malformed := by
  obtain ⟨-, hsoi, hver, -⟩ := (validate_eq_accept_iff v g).mp hg
  by_cases hlen : held.length < 3
  · exact validate_of_short hlen
  have hsame : ∀ k, k < held.length → held[k]? = g[k]? := by
    intro k hk
    obtain ⟨rest, rfl⟩ := hpre
    exact (List.getElem?_append_left hk).symm
  have hlast : held.getLast? ≠ some Config.eoi := by
    rw [List.getLast?_eq_getElem?, hsame _ (by omega)]
    exact hinner _ (by omega) (by omega)
  rw [validate_of_header (by omega) (by rwa [hsame 0 (by omega)]) (by rwa [hsame 1 (by omega)]), if_pos hlast]

end Sys2Proof.Machine
end

section
/-! The outcomes of RXPUSH and RXPEEK (spec/42_receiver.md R151 to R157, R161). -/

namespace Sys2Proof.Machine

/-- RXPUSH of the modelled block is the push under its parameters (R151, log 3). -/
theorem exec_rxpush (c : List Byte) (s : State) : exec (.rxpush c) s = .next (pushChunk Config.params c s) := rfl

/-- Settles O47. -/
theorem rxpushPushesUnderTheBlocksParameters : Obligations.RxpushPushesUnderTheBlocksParameters := exec_rxpush

/-- With FAULT = 0, pushing no bytes into an empty RXBUF is IDLE under any parameters (R153). -/
theorem pushChunk_of_nothing (p : Params) {c : List Byte} {s : State} (hclear : s.fault = false) (hempty : s.rxbuf = [])
    (hc : c = []) : pushChunk p c s = { s with out := s.out ++ [.response ⟨0x0#4, 0#32, []⟩] } := by
  rcases pushChunk_cases p c s with ⟨h, -⟩ | ⟨-, h, -⟩ | ⟨-, -, -, -, h⟩ | ⟨-, -, h, -⟩ | ⟨-, -, h, -⟩
  case inl => simp [hclear] at h
  case inr.inl => simp [hempty, hc, fitsCapacity_zero] at h
  case inr.inr.inl => exact h
  case inr.inr.inr.inl => simp [hempty, hc] at h
  case inr.inr.inr.inr => simp [hempty, hc, validate_nil] at h

/-- With FAULT = 1 an RXPUSH is answered with CAPACITY_FAULT under any parameters (10_state.md R32). -/
theorem pushChunk_of_fault (p : Params) (c : List Byte) {s : State} (hfault : s.fault = true) :
    pushChunk p c s = { s with out := s.out ++ [.response ⟨0x7#4, 0#32, []⟩] } :=
  unlessFaulted_of_fault _ hfault

/-- With RX_CAP unbounded no RXPUSH sets FAULT (R152). -/
theorem pushChunk_fault_of_unbounded {p : Params} (hcap : p.rxCap = none) (c : List Byte) (s : State) :
    (pushChunk p c s).fault = s.fault := by
  rcases pushChunk_cases p c s with ⟨-, h⟩ | ⟨-, hover, -⟩ | ⟨-, -, -, -, h⟩ | ⟨-, -, -, e, -, h⟩ | ⟨-, -, -, h⟩
  case inr.inl => simp [fitsCapacity_of_unbounded hcap] at hover
  all_goals rw [h]

/-- RXPUSH reads no field of CFG: each outcome of a push is its outcome under another CFG (R157). -/
theorem pushChunk_with_cfg (p : Params) (c : List Byte) (s : State) (v : Word) :
    pushChunk p c { s with cfg := v } = { pushChunk p c s with cfg := v } := by
  rcases pushChunk_cases p c s with ⟨hfault, h⟩ | ⟨hclear, hover, h⟩ | ⟨hclear, -, hempty, hc, h⟩ |
    ⟨hclear, hfit, hne, e, hv, h⟩ | ⟨hclear, hfit, hv, h⟩
  all_goals rw [h]
  case inl => exact pushChunk_of_fault p c hfault
  case inr.inl => exact pushChunk_of_overflow hclear hover
  case inr.inr.inl => exact pushChunk_of_nothing p hclear hempty hc
  case inr.inr.inr.inl => exact pushChunk_of_reject hclear hfit hne hv
  case inr.inr.inr.inr => exact pushChunk_of_accept hclear hfit hv

/-- With FAULT = 0, RXPEEK answers the length of RXBUF and a copy of it (R161). -/
theorem exec_rxpeek_of_clear {s : State} (hclear : s.fault = false) :
    exec .rxpeek s = .next { s with out := s.out ++ [.response ⟨0x0#4, BitVec.ofNat 32 s.rxbuf.length, s.rxbuf⟩] } :=
  congrArg Host.Outcome.next (unlessFaulted_of_clear _ hclear)

/-- Settles O43, from `pushChunk_of_accept`. -/
theorem rxpushDeliversAnAcceptedBuffer : Obligations.RxpushDeliversAnAcceptedBuffer := by
  intro c s hclear hfit hv
  rw [exec_rxpush, pushChunk_of_accept hclear hfit hv, List.append_assoc]
  rfl

/-- Settles O44, from `pushChunk_of_reject` and the errors of VALIDATE. -/
theorem rxpushKeepsARejectedBuffer : Obligations.RxpushKeepsARejectedBuffer := by
  intro c s e hclear hfit hne hv
  refine ⟨error_of_validate_reject hv, ?_⟩
  rw [exec_rxpush, pushChunk_of_reject hclear hfit hne hv]

/-- Settles O45, from `pushChunk_of_nothing`. -/
theorem rxpushOfNothingIntoNothingIsIdle : Obligations.RxpushOfNothingIntoNothingIsIdle := by
  intro s hclear hempty
  rw [exec_rxpush, pushChunk_of_nothing _ hclear hempty rfl]

/-- Settles O46: the overflow leaves FAULT = 1, which answers every instruction; an unbounded RX_CAP has no overflow. -/
theorem rxpushOverCapacitySetsFault : Obligations.RxpushOverCapacitySetsFault := by
  refine ⟨?_, ?_⟩
  · intro p cap c s hclear hcap hlt
    have hpush := pushChunk_of_overflow hclear (fitsCapacity_eq_false_of_lt hcap hlt)
    exact ⟨hpush, fun i => exec_of_fault i (by rw [hpush])⟩
  · intro p c s hclear hcap
    rw [pushChunk_fault_of_unbounded hcap, hclear]

/-- Settles O48, from `exec_rxpeek_of_clear`. -/
theorem rxpeekReturnsTheBuffer : Obligations.RxpeekReturnsTheBuffer :=
  fun s hclear => ⟨BitVec.ofNat 32 s.rxbuf.length, exec_rxpeek_of_clear hclear, BitVec.toNat_ofNat _ _⟩

/-- Settles O50: a push by `pushChunk_with_cfg`, a peek with and without FAULT, and the two SOI values. -/
theorem receiverIgnoresTheConfiguration : Obligations.ReceiverIgnoresTheConfiguration := by
  refine ⟨?_, ?_, isSoi_iff⟩
  · intro c s t v hexec
    obtain rfl := Host.Outcome.next.inj hexec
    rw [exec_rxpush, pushChunk_with_cfg]
  · intro s t v hexec
    rcases Bool.eq_false_or_eq_true s.fault with hfault | hclear
    · obtain rfl := Host.Outcome.next.inj ((exec_of_fault _ hfault).symm.trans hexec)
      exact exec_of_fault _ hfault
    · obtain rfl := Host.Outcome.next.inj ((exec_rxpeek_of_clear hclear).symm.trans hexec)
      exact exec_rxpeek_of_clear (s := { s with cfg := v }) hclear

end Sys2Proof.Machine
end

section
/-! Pushing an accepted frame in chunks, and two accepted frames in one chunk or two (spec/42_receiver.md R159). -/

namespace Sys2Proof.Machine

/-- How R159 (a) answers a chunk before the last: MALFORMED, or IDLE for a chunk without bytes. -/
def EarlyAnswer (c : List Byte) (r : Response) : Prop :=
  r = ⟨0x4#4, 0#32, []⟩ ∨ (c = [] ∧ r = ⟨0x0#4, 0#32, []⟩)

/-- With FAULT = 0, an RXPUSH that fits and leaves a malformed buffer keeps it and gives an early answer (R153, R154). -/
theorem pushChunk_of_malformed {p : Params} {c : List Byte} {s : State} (hclear : s.fault = false)
    (hfit : fitsCapacity p (s.rxbuf ++ c).length = true) (hv : validate p.protoVer (s.rxbuf ++ c) = .reject .malformed) :
    ∃ r, EarlyAnswer c r ∧ pushChunk p c s = { s with rxbuf := s.rxbuf ++ c, out := s.out ++ [.response r] } := by
  by_cases hne : s.rxbuf ++ c = []
  · obtain ⟨hempty, hc⟩ := List.append_eq_nil_iff.mp hne
    refine ⟨_, .inr ⟨hc, rfl⟩, ?_⟩
    rw [pushChunk_of_nothing p hclear hempty hc, hne, ← hempty]
  · rw [List.length_append] at hfit
    exact ⟨_, .inl rfl, pushChunk_of_reject hclear hfit hne hv⟩

/-- Chunks that fit and whose buffers are all malformed are kept in order, each with an early answer (R159 (a)). -/
theorem pushAll_of_prefixes_malformed {p : Params} {f : List Byte} (hfit : fitsCapacity p f.length = true)
    (hpre : ∀ held, held <+: f → validate p.protoVer held = .reject .malformed) (chunks : List (List Byte)) (s : State)
    (hclear : s.fault = false) (hf : s.rxbuf ++ chunks.flatten <+: f) :
    ∃ early : List Response, List.Forall₂ EarlyAnswer chunks early ∧ pushAll p chunks s =
      { s with rxbuf := s.rxbuf ++ chunks.flatten, out := s.out ++ early.map Output.response } := by
  induction chunks generalizing s with
  | nil => exact ⟨[], .nil, by simp [pushAll]⟩
  | cons c cs ih =>
    rw [List.flatten_cons, ← List.append_assoc] at hf ⊢
    have hheld : s.rxbuf ++ c <+: f := (List.prefix_append _ _).trans hf
    obtain ⟨r, hr, hpush⟩ := pushChunk_of_malformed hclear (fitsCapacity_mono hheld.length_le hfit) (hpre _ hheld)
    obtain ⟨early, hearly, hrest⟩ := ih (pushChunk p c s) (by rw [hpush]; exact hclear) (by rw [hpush]; exact hf)
    refine ⟨r :: early, .cons hr hearly, ?_⟩
    rw [pushAll, hrest, hpush]
    simp

/-- Settles O55: the buffers before the last chunk are proper initial parts of the frame and so malformed; the last chunk
completes it. -/
theorem chunksDeliverTheirFrameOnceAtTheLastChunk : Obligations.ChunksDeliverTheirFrameOnceAtTheLastChunk := by
  rintro p g last chunks s hg hinner rfl hlast hclear hempty hfit
  have hlt : chunks.flatten.length < (chunks.flatten ++ last).length := by
    rw [List.length_append]
    exact Nat.lt_add_of_pos_right (List.length_pos_iff.mpr hlast)
  obtain ⟨early, hearly, hkept⟩ := pushAll_of_prefixes_malformed (fitsCapacity_mono hlt.le hfit)
    (fun held hheld => validate_proper_prefix_malformed hg hinner (hheld.trans (List.prefix_append _ _))
      (hheld.length_le.trans_lt hlt))
    chunks s hclear (by rw [hempty, List.nil_append])
  rw [hempty, List.nil_append] at hkept
  have hpush := pushChunk_of_accept (p := p) (c := last) (s := pushAll p chunks s) (by rw [hkept]; exact hclear)
    (by rw [hkept]; rwa [List.length_append] at hfit) (by rw [hkept]; exact hg)
  refine ⟨early, ?_, hearly.length_eq.symm, fun k c r hc hr => ?_⟩
  · rw [pushAll_append, pushAll, pushAll, hpush, hkept, ← hempty]
    simp
  · obtain ⟨hk, rfl⟩ := List.getElem?_eq_some_iff.mp hc
    obtain ⟨hk', rfl⟩ := List.getElem?_eq_some_iff.mp hr
    exact hearly.get hk hk'

/-- With FAULT = 0 and an empty RXBUF, an accepted frame that fits, pushed whole, is delivered and leaves RXBUF empty (R156). -/
theorem pushChunk_whole_frame {p : Params} {g : List Byte} {s : State} (hclear : s.fault = false) (hempty : s.rxbuf = [])
    (hfit : fitsCapacity p g.length = true) (hg : validate p.protoVer g = .accept) :
    pushChunk p g s = { s with out := s.out ++ [.rxf g, .response ⟨0x0#4, 1#32, []⟩] } := by
  rw [pushChunk_of_accept hclear (by simpa [hempty] using hfit) (by simpa [hempty] using hg)]
  simp [hempty]

/-- Settles O56: the concatenation of two accepted frames is accepted, and delivery leaves RXBUF empty for the second. -/
theorem framesAreSplitOnlyByChunks : Obligations.FramesAreSplitOnlyByChunks := by
  intro p g g' s hg hg' hclear hempty hfit
  refine ⟨?_, ?_⟩
  · rw [pushAll, pushAll]
    exact pushChunk_whole_frame hclear hempty (by rwa [List.length_append]) (validate_append_accept hg hg')
  · have hfirst := pushChunk_whole_frame hclear hempty (fitsCapacity_mono (Nat.le_add_right _ _) hfit) hg
    have hsecond := pushChunk_whole_frame (s := pushChunk p g s) (by rw [hfirst]; exact hclear)
      (by rw [hfirst]; exact hempty) (fitsCapacity_mono (Nat.le_add_left _ _) hfit) hg'
    rw [pushAll, pushAll, pushAll, hsecond, hfirst]
    simp

end Sys2Proof.Machine
end

section
/-! What can be delivered: an instruction keeps RXBUF and adds to it, or delivers an accepted buffer; and a stuck buffer is never
accepted, so no run without a reset delivers one (spec/42_receiver.md R158, R160; spec/70_reset_and_hazards.md R235). -/

namespace Sys2Proof.Machine

/-- Nothing is delivered from `s` to `t` and every byte held is still held, with other bytes behind it or none (R154, R160). -/
structure KeepsHeldBytes (s t : State) : Prop where
  held : s.rxbuf <+: t.rxbuf
  frames : rxfFrames t.out = rxfFrames s.out

theorem KeepsHeldBytes.trans {s t u : State} (hst : KeepsHeldBytes s t) (htu : KeepsHeldBytes t u) : KeepsHeldBytes s u :=
  ⟨hst.held.trans htu.held, htu.frames.trans hst.frames⟩

/-- RXBUF and the delivered frames stand, whatever else is written. -/
theorem KeepsHeldBytes.of_eq {s t : State} (hbuf : t.rxbuf = s.rxbuf) (hframes : rxfFrames t.out = rxfFrames s.out) :
    KeepsHeldBytes s t :=
  ⟨hbuf ▸ List.prefix_refl _, hframes⟩

/-- An RXPUSH keeps the bytes held and delivers nothing, or delivers an accepted buffer (R152 to R156). -/
theorem pushChunk_keeps_or_delivers (p : Params) (c : List Byte) (s : State) :
    KeepsHeldBytes s (pushChunk p c s) ∨
      (validate p.protoVer (s.rxbuf ++ c) = .accept ∧
        rxfFrames (pushChunk p c s).out = rxfFrames s.out ++ [s.rxbuf ++ c]) := by
  rcases pushChunk_cases p c s with ⟨-, h⟩ | ⟨-, -, h⟩ | ⟨-, -, -, -, h⟩ | ⟨-, -, -, e, -, h⟩ | ⟨-, -, hv, h⟩
  all_goals rw [h]
  case inr.inr.inr.inl => exact .inl ⟨List.prefix_append _ _, by simp⟩
  case inr.inr.inr.inr => exact .inr ⟨hv, by simp⟩
  all_goals exact .inl (.of_eq rfl (by simp))

/-- An instruction keeps the bytes held and delivers nothing, or is an RXPUSH that delivers an accepted buffer (R160). -/
theorem exec_keeps_or_delivers {i : Instr} {s t : State} (hexec : exec i s = .next t) :
    KeepsHeldBytes s t ∨
      ∃ c, i = .rxpush c ∧ validate Config.params.protoVer (s.rxbuf ++ c) = .accept ∧
        rxfFrames t.out = rxfFrames s.out ++ [s.rxbuf ++ c] := by
  rcases exec_cases i s with ⟨-, h⟩ | ⟨-, a, b, c, d, -, h⟩ | ⟨-, c, hi, h⟩ | ⟨-, v, d, -, h⟩ | ⟨-, e, -, h⟩ |
    ⟨-, cid2, info, f, -, h⟩
  all_goals obtain rfl := Host.Outcome.next.inj (h.symm.trans hexec)
  case inr.inr.inl => exact (pushChunk_keeps_or_delivers _ c s).imp_right fun hdelivers => ⟨c, hi, hdelivers⟩
  all_goals exact .inl (.of_eq rfl (by simp))

/-- No instruction takes an event of its own (70_reset_and_hazards.md R241). -/
theorem exec_pending {i : Instr} {s t : State} (hexec : exec i s = .next t) : t.pending = s.pending := by
  obtain ⟨t', hexec', emitted, resp, hpending, -⟩ := exec_endsWithOneResponse i s
  obtain rfl := Host.Outcome.next.inj (hexec'.symm.trans hexec)
  exact hpending

/-- Settles O49: an instruction that puts a frame on RXF delivers an accepted buffer, and that has the four properties. -/
theorem onlyAcceptedBuffersAreDelivered : Obligations.OnlyAcceptedBuffersAreDelivered := by
  intro i s t hexec hne
  rcases exec_keeps_or_delivers hexec with hkeeps | ⟨c, hi, hv, hframes⟩
  · exact absurd hkeeps.frames hne
  · obtain ⟨hlen, hsoi, hver, hlast⟩ := (validate_eq_accept_iff _ _).mp hv
    obtain ⟨b, hb, hbsoi⟩ := (Option.any_eq_true _ _).mp hsoi
    exact ⟨c, hi, hframes, hlen, by simpa [hb] using (isSoi_iff b).mp hbsoi, hver, hlast⟩

/-- Bytes behind a stuck buffer leave it stuck (R158). -/
theorem Stuck.of_prefix {v : Byte} {held buf : List Byte} (h : Stuck v held) (hpre : held <+: buf) : Stuck v buf := by
  obtain ⟨more, rfl⟩ := hpre
  rcases h with ⟨b, rest, rfl, hsoi⟩ | ⟨b, b1, rest, rfl, hsoi, hver⟩
  · exact .inl ⟨b, rest ++ more, rfl, hsoi⟩
  · exact .inr ⟨b, b1, rest ++ more, rfl, hsoi, hver⟩

/-- A stuck buffer holds a byte. -/
theorem Stuck.ne_nil {v : Byte} {buf : List Byte} (h : Stuck v buf) : buf ≠ [] := by
  rcases h with ⟨b, rest, rfl, -⟩ | ⟨b, b1, rest, rfl, -⟩ <;> exact List.cons_ne_nil _ _

/-- The status of a rejected stuck buffer: malformed on a wrong byte 0 and at length 2, and else, with byte 1 wrong, an invalid
version (R158). -/
def stuckError (buf : List Byte) : ProtocolError :=
  if buf[0]?.any isSoi = false ∨ buf.length = 2 then .malformed else .invalidVersion

/-- VALIDATE rejects every stuck buffer with the error of its case (R150, R158). -/
theorem validate_of_stuck {v : Byte} {buf : List Byte} (h : Stuck v buf) : validate v buf = .reject (stuckError buf) := by
  unfold stuckError
  rcases h with ⟨b, rest, rfl, hsoi⟩ | ⟨b, b1, rest, rfl, hsoi, hver⟩
  · rw [if_pos (.inl hsoi)]
    exact validate_of_not_soi hsoi
  · cases rest with
    | nil =>
      rw [if_pos (.inr rfl)]
      exact validate_of_short (by simp)
    | cons z rest =>
      rw [if_neg (by simp [hsoi])]
      exact validate_of_version (by simp) hsoi (by simpa using hver)

/-- Bytes behind a stuck buffer leave its byte 0. -/
theorem Stuck.getElem?_zero_append {v : Byte} {buf : List Byte} (h : Stuck v buf) (c : List Byte) :
    (buf ++ c)[0]? = buf[0]? :=
  List.getElem?_append_left (List.length_pos_iff.mpr h.ne_nil)

/-- Settles O52: a stuck buffer stays stuck behind the chunk, so VALIDATE rejects it with the error of its case. -/
theorem pushIntoAStuckBufferIsRejected : Obligations.PushIntoAStuckBufferIsRejected := by
  intro p c s hclear hstuck hfit
  have hmore : Stuck p.protoVer (s.rxbuf ++ c) := hstuck.of_prefix (List.prefix_append _ _)
  refine ⟨hmore, ?_⟩
  rw [pushChunk_of_reject hclear hfit hmore.ne_nil (validate_of_stuck hmore), stuckError, hstuck.getElem?_zero_append,
    apply_ite ProtocolError.code]
  rfl

/-- An instruction on a stuck buffer keeps the bytes held and delivers nothing (R158). -/
theorem exec_of_stuck {i : Instr} {s t : State} (hstuck : Stuck Config.params.protoVer s.rxbuf)
    (hexec : exec i s = .next t) : KeepsHeldBytes s t := by
  rcases exec_keeps_or_delivers hexec with hkeeps | ⟨c, -, hv, -⟩
  · exact hkeeps
  · have hreject := validate_of_stuck (hstuck.of_prefix (List.prefix_append _ c))
    cases hv.symm.trans hreject

/-- A step that takes no reset keeps the bytes held by a stuck buffer, delivers nothing and takes at most one event
(R158, R241). -/
theorem step_of_stuck {s t : State} (hstuck : Stuck Config.params.protoVer s.rxbuf)
    (hreset : ∀ es, s.pending ≠ .reset :: es) (hstep : step s = .next t) :
    KeepsHeldBytes s t ∧ t.pending = s.pending.tail := by
  rcases step_cases s with ⟨hp, h⟩ | ⟨es, hp, -⟩ | ⟨r, es, e, hp, -, h⟩ | ⟨r, es, i, hp, -, h⟩
  case inr.inl => exact absurd hp (hreset es)
  case inr.inr.inr =>
    have hexec := h.symm.trans hstep
    have hkeeps := exec_of_stuck (s := { s with pending := es }) hstuck hexec
    exact ⟨⟨hkeeps.held, hkeeps.frames⟩, by rw [exec_pending hexec, hp]; rfl⟩
  all_goals
    obtain rfl := Host.Outcome.next.inj (h.symm.trans hstep)
    exact ⟨.of_eq rfl (by simp), by simp [hp]⟩

/-- Every step makes a next state (00_scope.md R2; log 10). -/
theorem exists_step (s : State) : ∃ t, step s = .next t := by
  rcases step_cases s with ⟨-, h⟩ | ⟨es, -, h⟩ | ⟨r, es, e, -, -, h⟩ | ⟨r, es, i, -, -, h⟩
  case inr.inr.inr =>
    obtain ⟨t, hexec, -⟩ := exec_endsWithOneResponse i { s with pending := es }
    exact ⟨t, h.trans hexec⟩
  all_goals exact ⟨_, h⟩

/-- No run without a reset delivers from a stuck buffer or drops a byte of it (R158, R235). -/
theorem run_of_stuck {k : Nat} {s t : State} (hstuck : Stuck Config.params.protoVer s.rxbuf)
    (hreset : Event.reset ∉ s.pending.take k) (hrun : Sys2Proof.core.run k s = .next t) : KeepsHeldBytes s t := by
  induction k generalizing s with
  | zero =>
    obtain rfl := Host.Outcome.next.inj hrun
    exact .of_eq rfl rfl
  | succ k ih =>
    obtain ⟨u, hstep⟩ := exists_step s
    rw [core_run_succ k hstep] at hrun
    have hhead : ∀ es, s.pending ≠ .reset :: es := by
      intro es hp
      simp [hp] at hreset
    obtain ⟨hkeeps, hpending⟩ := step_of_stuck hstuck hhead hstep
    have htail : Event.reset ∉ u.pending.take k := by
      rw [hpending]
      cases hp : s.pending with
      | nil => simp
      | cons ev es =>
        rw [hp, List.take_succ_cons] at hreset
        exact fun hmem => hreset (List.mem_cons_of_mem _ hmem)
    exact hkeeps.trans (ih (hstuck.of_prefix hkeeps.held) htail hrun)

/-- Settles O53, from `run_of_stuck`: the run keeps the bytes held, and with them the buffer stays stuck. -/
theorem aStuckBufferNeverDeliversUntilReset : Obligations.AStuckBufferNeverDeliversUntilReset := by
  intro k s t hstuck hreset hrun
  have hkeeps := run_of_stuck hstuck hreset hrun
  exact ⟨hkeeps.frames, hstuck.of_prefix hkeeps.held⟩

end Sys2Proof.Machine
end

section
/-! The CMD transactions: each transmits the frame of its row's pair (spec/43_commands.md R180). -/

namespace Sys2Proof.Machine

/-- The length of a frame, with INFO or without (R129, R130). -/
theorem length_encodedFrame_cases (p : Params) (cfg : Word) (cid2 : Byte) (info : Option Half) :
    (encodedFrame p cfg cid2 info).length =
      (if info = none then 18 else if cfgLenDbl cfg = 1#1 then 30 else 22) + (if cfgChkDbl cfg = 1#1 then 4 else 0) := by
  cases info with
  | none =>
    rw [length_encodedFrame_none]
    split <;> rfl
  | some v => exact length_encodedFrame_some p cfg cid2 v

/-- An instruction transmits a (cid2, info) pair when its meaning is that pair's encode transaction (R128). -/
def Transmits (i : Instr) (cid2 : Byte) (info : Option Half) : Prop :=
  ∀ s, exec i s = .next (encodeTransaction Config.params cid2 info s)

/-- What an instruction that transmits a pair does with FAULT = 0 (R128 to R131). -/
theorem Transmits.exists_frame {i : Instr} {cid2 : Byte} {info : Option Half} (hi : Transmits i cid2 info) {s : State}
    (hclear : s.fault = false) :
    ∃ f : List Byte, encodeFrame Config.params s.cfg cid2 info = .ok f ∧
      f.length = (if info = none then 18 else if cfgLenDbl s.cfg = 1#1 then 30 else 22) +
        (if cfgChkDbl s.cfg = 1#1 then 4 else 0) ∧
      exec i s = .next { s with out := s.out ++ [.tx f, .response ⟨0x0#4, BitVec.ofNat 32 f.length, []⟩] } :=
  ⟨encodedFrame Config.params s.cfg cid2 info, encodeFrame_eq_ok _ _ _ _, length_encodedFrame_cases _ _ _ _,
    (hi s).trans (congrArg Host.Outcome.next (encodeTransaction_of_clear _ _ _ hclear))⟩

/-- Settles O39: each row's instruction transmits the row's pair, and `Transmits.exists_frame` says what that does. -/
theorem commandsTransmitTheirDescriptors : Obligations.CommandsTransmitTheirDescriptors := by
  intro s hclear row hrow
  have htransmits : Transmits row.1 row.2.1 row.2.2 := by
    simp only [List.mem_cons, List.not_mem_nil, or_false] at hrow
    rcases hrow with rfl | rfl | rfl | rfl | rfl | rfl <;> exact fun _ => rfl
  exact htransmits.exists_frame hclear

end Sys2Proof.Machine
end

section
/-! The fields of CFG written and read: a write of a register's own fields is the register, and reading the register is the write
of its fields over zero reserved bits (spec/44_control.md R190, R191; spec/10_state.md R23, R28). -/

namespace Sys2Proof.Machine

/-- A register with its own four fields written is the register: the fields and the reserved bits cover every bit (R23). -/
theorem cfgWithFields_own_fields (cfg : Word) :
    cfgWithFields cfg (cfgAddr cfg) (cfgSoiSel cfg) (cfgLenDbl cfg) (cfgChkDbl cfg) = cfg := by
  have hcover : fieldMask 11 21 ||| (fieldMask 10 1 ||| (fieldMask 9 1 ||| (fieldMask 8 1 ||| fieldMask 0 8))) =
      BitVec.allOnes 32 := by decide
  simp only [cfgWithFields, cfgReserved, cfgChkDbl, cfgLenDbl, cfgSoiSel, cfgAddr, placeAt_extractLsb', BitVec.or_assoc,
    ← BitVec.and_or_distrib_left]
  rw [hcover, BitVec.and_allOnes]

/-- A write of the four fields takes from the old register its reserved bits alone (log 6). -/
theorem cfgWithFields_congr {cfg cfg' : Word} (hreserved : cfgReserved cfg = cfgReserved cfg') (a : Byte) (s l c : Bit) :
    cfgWithFields cfg a s l c = cfgWithFields cfg' a s l c := by
  rw [cfgWithFields, hreserved, ← cfgWithFields]

/-- Reading the register gives its four fields over zero reserved bits (R28, R191). -/
theorem cfgRead_eq_withFields (cfg : Word) :
    cfgRead cfg = cfgWithFields 0#32 (cfgAddr cfg) (cfgSoiSel cfg) (cfgLenDbl cfg) (cfgChkDbl cfg) := by
  have hzero : placeAt (cfgReserved 0#32) 11 = 0#32 := by decide
  rw [cfgWithFields, hzero, BitVec.zero_or, ← cfgRead]

/-- A register whose reserved bits are zero is read as it stands (R28). -/
theorem cfgRead_of_reserved_zero {cfg : Word} (hreserved : cfgReserved cfg = 0#21) : cfgRead cfg = cfg := by
  have hsame : cfgReserved 0#32 = cfgReserved cfg := hreserved.symm
  rw [cfgRead_eq_withFields, cfgWithFields_congr hsame, cfgWithFields_own_fields]

/-- Settles O23: the register written is `cfgWithFields`, and each field of it is read back as its operand. -/
theorem cfgwWritesTheFourFields : Obligations.CfgwWritesTheFourFields := by
  intro addr soiSel lenDbl chkDbl s hclear
  exact ⟨cfgWithFields s.cfg addr soiSel lenDbl chkDbl, exec_cfgw_of_clear addr soiSel lenDbl chkDbl hclear,
    cfgAddr_withFields .., cfgSoiSel_withFields .., cfgLenDbl_withFields .., cfgChkDbl_withFields ..,
    cfgReserved_withFields ..⟩

/-- Settles O24: the value answered is `cfgRead`, a write of the register's fields over a zero word, so that its fields are the
register's and its reserved bits zero. -/
theorem cfgrReadsTheRegister : Obligations.CfgrReadsTheRegister := by
  intro s hclear
  refine ⟨cfgRead s.cfg, exec_cfgr_of_clear hclear, ?_, ?_, ?_, ?_, ?_, cfgRead_of_reserved_zero⟩ <;>
    rw [cfgRead_eq_withFields]
  · exact cfgAddr_withFields ..
  · exact cfgSoiSel_withFields ..
  · exact cfgLenDbl_withFields ..
  · exact cfgChkDbl_withFields ..
  · exact cfgReserved_withFields ..

end Sys2Proof.Machine
end

section
/-! The request words that the operation sections write out: each is the encoding of its operation, which decodes to it
(spec/30_encoding.md R82, R84). -/

namespace Sys2Proof

/-- A request that a well-formed instruction is encoded to decodes to it. -/
theorem decode_of_encode_eq {i : Instr} {r : Request} (henc : encode i = r) (hwf : i.wellFormed = true) :
    decode r = .ok i := by
  rw [← henc]
  exact decodeOfEncodeIsTheInstruction i hwf

/-- Settles O4: every word is the one its operation is encoded to. -/
theorem decodingReadsTheWordsOfTheSpec : Obligations.DecodingReadsTheWordsOfTheSpec := by
  refine ⟨?_, ?_, ?_, ?_, ?_, ?_, ?_, ?_, ?_, ?_, ?_, ?_, ?_, ?_, ?_, ?_, ?_, ?_⟩ <;>
    exact decode_of_encode_eq rfl rfl

end Sys2Proof
end

section
/-! What an error leaves: a transaction answers OK, or ends by one row of the table of errors (spec/60_exceptions.md R200,
R212). -/

namespace Sys2Proof.Machine

/-- The last output from `s` to `t` is a response with STATUS OK. -/
def AnswersOk (s t : State) : Prop :=
  ∃ (emitted : List Output) (v : Word) (d : List Byte), t.out = s.out ++ emitted ++ [.response ⟨0x0#4, v, d⟩]

/-- The table of errors: the states a transaction can leave behind an error response, by STATUS. `pushes` says which chunk
the request pushes, if it pushes one (R212). -/
inductive ErrorOutcome (pushes : List Byte → Prop) (s : State) : BitVec 4 → State → Prop where
  /-- MALFORMED and INVALID_VERSION: the chunk is appended. -/
  | rejected {c : List Byte} {code : BitVec 4} (hpush : pushes c) (hcode : code = 0x4#4 ∨ code = 0x5#4) :
      ErrorOutcome pushes s code { s with rxbuf := s.rxbuf ++ c, out := s.out ++ [.response ⟨code, 0#32, []⟩] }
  /-- CAPACITY_FAULT of a block that was not faulted: FAULT is set. -/
  | overflow {c : List Byte} (hpush : pushes c) (hclear : s.fault = false) :
      ErrorOutcome pushes s 0x7#4 { s with fault := true, out := s.out ++ [.response ⟨0x7#4, 0#32, []⟩] }
  /-- Every other error: only the response is new. -/
  | unchanged {code : BitVec 4} (hkept : ¬ (code = 0x4#4 ∨ code = 0x5#4)) (hfaulted : code = 0x7#4 → s.fault = true) :
      ErrorOutcome pushes s code { s with out := s.out ++ [.response ⟨code, 0#32, []⟩] }

namespace ErrorOutcome

variable {pushes : List Byte → Prop} {s t : State} {code : BitVec 4}

theorem mono {pushes' : List Byte → Prop} (h : ErrorOutcome pushes s code t) (himp : ∀ c, pushes c → pushes' c) :
    ErrorOutcome pushes' s code t := by
  cases h with
  | rejected hpush hcode => exact .rejected (himp _ hpush) hcode
  | overflow hpush hclear => exact .overflow (himp _ hpush) hclear
  | unchanged hkept hfaulted => exact .unchanged hkept hfaulted

/-- On a faulted block every transaction ends in CAPACITY_FAULT without effect (10_state.md R32). -/
theorem of_fault (hfault : s.fault = true) :
    ErrorOutcome pushes s 0x7#4 { s with out := s.out ++ [.response ⟨0x7#4, 0#32, []⟩] } :=
  .unchanged (by decide) fun _ => hfault

/-- No error emits anything but its response (R212). -/
theorem out (h : ErrorOutcome pushes s code t) : t.out = s.out ++ [.response ⟨code, 0#32, []⟩] := by
  cases h <;> rfl

theorem cfg (h : ErrorOutcome pushes s code t) : t.cfg = s.cfg := by
  cases h <;> rfl

theorem pending (h : ErrorOutcome pushes s code t) : t.pending = s.pending := by
  cases h <;> rfl

/-- What the row of the status says of RXBUF and FAULT. -/
theorem rxbuf_fault (h : ErrorOutcome pushes s code t) :
    if code = 0x4#4 ∨ code = 0x5#4 then ∃ c, pushes c ∧ t.rxbuf = s.rxbuf ++ c ∧ t.fault = s.fault
    else if code = 0x7#4 ∧ s.fault = false then ∃ c, pushes c ∧ t.rxbuf = s.rxbuf ∧ t.fault = true
    else t.rxbuf = s.rxbuf ∧ t.fault = s.fault := by
  cases h with
  | rejected hpush hcode =>
    rw [if_pos hcode]
    exact ⟨_, hpush, rfl, rfl⟩
  | overflow hpush hclear =>
    rw [if_neg (by decide), if_pos ⟨rfl, hclear⟩]
    exact ⟨_, hpush, rfl, rfl⟩
  | unchanged hkept hfaulted =>
    rw [if_neg hkept, if_neg fun hcap => by simp [hfaulted hcap.1] at hcap]
    exact ⟨rfl, rfl⟩

end ErrorOutcome

/-- An RXPUSH answers OK or ends by a row of the table (42_receiver.md R152 to R156). -/
theorem pushChunk_ok_or_error (p : Params) (c : List Byte) (s : State) :
    AnswersOk s (pushChunk p c s) ∨ ∃ code, ErrorOutcome (· = c) s code (pushChunk p c s) := by
  rcases pushChunk_cases p c s with ⟨hfault, h⟩ | ⟨hclear, -, h⟩ | ⟨-, -, -, -, h⟩ | ⟨-, -, -, e, hv, h⟩ | ⟨-, -, -, h⟩
  all_goals rw [h]
  · exact .inr ⟨_, .of_fault hfault⟩
  · exact .inr ⟨_, .overflow rfl hclear⟩
  · exact .inl ⟨[], 0#32, [], by simp⟩
  · exact .inr ⟨_, .rejected rfl ((error_of_validate_reject hv).imp (congrArg _) (congrArg _))⟩
  · exact .inl ⟨[.rxf (s.rxbuf ++ c)], 1#32, [], rfl⟩

/-- The encoder's errors have rows of the table that leave everything (R204 to R206, R212). -/
theorem ErrorOutcome.of_encode_error {pushes : List Byte → Prop} {s : State} {e : ProtocolError}
    (he : e = .lengthOverflow ∨ e = .emptyPayload ∨ e = .zeroChecksum) :
    ErrorOutcome pushes s e.code { s with out := s.out ++ [.response ⟨e.code, 0#32, []⟩] } := by
  rcases he with rfl | rfl | rfl <;> exact .unchanged (by decide) fun hcap => absurd hcap (by decide)

/-- Every instruction answers OK or ends by a row of the table (R212). -/
theorem exec_ok_or_error {i : Instr} {s t : State} (hexec : exec i s = .next t) :
    AnswersOk s t ∨ ∃ code, ErrorOutcome (i = .rxpush ·) s code t := by
  rcases exec_cases i s with ⟨hfault, h⟩ | ⟨-, a, b, c, d, -, h⟩ | ⟨-, c, rfl, h⟩ | ⟨-, v, d, -, h⟩ | ⟨-, e, he, h⟩ |
    ⟨-, cid2, info, f, -, h⟩
  all_goals obtain rfl := Host.Outcome.next.inj (h.symm.trans hexec)
  · exact .inr ⟨_, .of_fault hfault⟩
  · exact .inl ⟨[], 0#32, [], by simp⟩
  · exact (pushChunk_ok_or_error _ c s).imp_right fun ⟨code, herror⟩ =>
      ⟨code, herror.mono fun _ hc => congrArg Instr.rxpush hc.symm⟩
  · exact .inl ⟨[], v, d, by simp⟩
  · exact .inr ⟨_, .of_encode_error he⟩
  · exact .inl ⟨[.tx f], BitVec.ofNat 32 f.length, [], by simp⟩

/-- A request's step answers OK or ends by a row of the table; a refusal leaves everything (R209, R212). -/
theorem step_request_ok_or_error {s t : State} {r : Request} {es : List Event} (hp : s.pending = .request r :: es)
    (hstep : step s = .next t) :
    AnswersOk { s with pending := es } t ∨
      ∃ code, ErrorOutcome (fun c => decode r = .ok (.rxpush c)) { s with pending := es } code t := by
  rcases step_request_cases hp with ⟨e, -, h⟩ | ⟨i, hd, h⟩
  · obtain rfl := Host.Outcome.next.inj (h.symm.trans hstep)
    refine .inr ⟨_, .unchanged ?_ fun hcap => ?_⟩
    · split <;> decide
    · by_contra hclear
      simp [hclear] at hcap
  · exact (exec_ok_or_error (h.symm.trans hstep)).imp_right fun ⟨code, herror⟩ =>
      ⟨code, herror.mono fun _ hi => hi ▸ hd⟩

/-- What is emitted up to the last response, and that response, can be read off the output log. -/
theorem emitted_response_inj {old emitted emitted' : List Output} {resp resp' : Response}
    (h : old ++ emitted ++ [.response resp] = old ++ emitted' ++ [.response resp']) :
    emitted = emitted' ∧ resp = resp' := by
  simpa using h

/-- Settles O13: the step of a request that is not answered OK ends by the table's row of its status. -/
theorem errorsLeaveExactlyTheStateOfTheTable : Obligations.ErrorsLeaveExactlyTheStateOfTheTable := by
  intro s t r es emitted resp hp hstep hout hstatus
  rcases step_request_ok_or_error hp hstep with ⟨emitted', v, d, hok⟩ | ⟨code, herror⟩
  · obtain ⟨-, rfl⟩ := emitted_response_inj (hout.symm.trans hok)
    exact absurd rfl hstatus
  · obtain ⟨rfl, rfl⟩ := emitted_response_inj (emitted' := []) (hout.symm.trans (by simpa using herror.out))
    exact ⟨rfl, herror.cfg, herror.pending, herror.rxbuf_fault⟩

end Sys2Proof.Machine
end

section
/-! Every issued request is answered, and every instruction only appends to the output (spec/60_exceptions.md R200, R219;
spec/20_memory.md R49; spec/70_reset_and_hazards.md R241). -/

namespace Sys2Proof.Machine

/-- Settles O15: an instruction ends its transaction with one response behind the output that stood. -/
theorem everyInstructionOnlyAppendsOutput : Obligations.EveryInstructionOnlyAppendsOutput := by
  intro i s
  obtain ⟨t, hexec, emitted, resp, hpending, hout, -⟩ := exec_endsWithOneResponse i s
  exact ⟨t, emitted ++ [.response resp], hexec, hpending, by rw [hout, List.append_assoc]⟩

/-- From `s` to `t` the output is appended to, with as many responses as the events hold requests. -/
def AppendsResponsesTo (events : List Event) (s t : State) : Prop :=
  ∃ new : List Output, t.out = s.out ++ new ∧ (responses new).length = requestsIn events

theorem requestsIn_append (es es' : List Event) : requestsIn (es ++ es') = requestsIn es + requestsIn es' := by
  induction es with
  | nil => exact (Nat.zero_add _).symm
  | cons ev es ih => cases ev <;> simp only [List.cons_append, requestsIn, ih, Nat.add_right_comm]

theorem AppendsResponsesTo.trans {es es' : List Event} {s t u : State} (hst : AppendsResponsesTo es s t)
    (htu : AppendsResponsesTo es' t u) : AppendsResponsesTo (es ++ es') s u := by
  obtain ⟨new, hout, hcount⟩ := hst
  obtain ⟨new', hout', hcount'⟩ := htu
  exact ⟨new ++ new', by rw [hout', hout, List.append_assoc], by
    rw [responses_append, List.length_append, hcount, hcount', requestsIn_append]⟩

/-- A step takes the oldest event and answers it if it is a request (R241). -/
theorem step_takes_and_answers {s : State} {ev : Event} {es : List Event} (hp : s.pending = ev :: es) :
    ∃ t, step s = .next t ∧ t.pending = es ∧ AppendsResponsesTo [ev] s t := by
  cases ev with
  | reset =>
    refine ⟨resetBlock (s.setPending es), by rw [step, takeEvent, hp], rfl, [], ?_, rfl⟩
    exact (List.append_nil _).symm
  | request r =>
    obtain ⟨t, hstep, emitted, resp, hpending, hout, hframe, -⟩ := step_request_endsWithOneResponse hp
    exact ⟨t, hstep, hpending, emitted ++ [.response resp], by rw [hout, List.append_assoc], by
      simp [hframe, requestsIn]⟩

/-- A run of one step for each issued event takes them all and answers the requests among them (R219, R241). -/
theorem run_takes_and_answers_all {events : List Event} {s : State} (hp : s.pending = events) :
    ∃ t, Sys2Proof.core.run events.length s = .next t ∧ t.pending = [] ∧ AppendsResponsesTo events s t := by
  induction events generalizing s with
  | nil => exact ⟨s, core_run_zero s, hp, [], (List.append_nil _).symm, rfl⟩
  | cons ev es ih =>
    obtain ⟨u, hstep, hpending, hfirst⟩ := step_takes_and_answers hp
    obtain ⟨t, hrun, hempty, hrest⟩ := ih hpending
    exact ⟨t, (core_run_succ es.length hstep).trans hrun, hempty, hfirst.trans hrest⟩

/-- Settles O14, from `run_takes_and_answers_all`. -/
theorem everyIssuedRequestIsAnswered : Obligations.EveryIssuedRequestIsAnswered := by
  intro s
  obtain ⟨t, hrun, hempty, new, hout, hcount⟩ := run_takes_and_answers_all (s := s) rfl
  exact ⟨t, new, hrun, hempty, hout, hcount⟩

end Sys2Proof.Machine
end

section
/-! The status codes: a status and its code determine each other, and bit 3 marks the transport class
(spec/60_exceptions.md R201 to R203). -/

namespace Sys2Proof.Machine

/-- A status is read back from its code (R201, R202). -/
theorem statusOfCode_code (st : Status) : statusOfCode st.code = st := by
  cases st with
  | ok => rfl
  | protocol e => cases e <;> rfl
  | transport kind =>
    have hback : ∀ k : BitVec 3, statusOfCode (Status.transport k).code = .transport k := by decide
    exact hback kind

/-- A code is read back from its status: every code is one of the sixteen (R201). -/
theorem code_statusOfCode : ∀ c : BitVec 4, (statusOfCode c).code = c := by decide

/-- Bit 3 of its code is set for the transport class alone (R202, R203). -/
theorem getLsbD_three_code_iff (st : Status) : st.code.getLsbD 3 = true ↔ ∃ k, st = .transport k := by
  cases st with
  | ok => simp [Status.code]
  | protocol e => cases e <;> simp [Status.code, ProtocolError.code]
  | transport kind =>
    have hmark : ∀ k : BitVec 3, (Status.transport k).code.getLsbD 3 = true := by decide
    exact ⟨fun _ => ⟨kind, rfl⟩, fun _ => hmark kind⟩

/-- Settles O16: the two directions of the coding, and with them bit 3 of any code as bit 3 of its status's code. -/
theorem statusCodesAreATaggedUnion : Obligations.StatusCodesAreATaggedUnion := by
  refine ⟨statusOfCode_code, code_statusOfCode, fun c => ?_, rfl, rfl, rfl, rfl, rfl, rfl, rfl, rfl⟩
  rw [← getLsbD_three_code_iff, code_statusOfCode]

end Sys2Proof.Machine
end

section
/-! Reset and waiting: what a step does on the reset input and with no event issued, and that reset recovers the receiver
(spec/70_reset_and_hazards.md R230 to R232, R235). -/

namespace Sys2Proof.Machine

/-- The step of the reset input resets the block and takes that event alone (R231). -/
theorem step_of_reset_pending {s : State} {es : List Event} (hp : s.pending = .reset :: es) :
    step s = .next (resetBlock { s with pending := es }) := by
  rw [step, takeEvent, hp]
  rfl

/-- Settles O54: the reset leaves RXBUF empty and FAULT = 0, where an accepted frame that fits is delivered whole. -/
theorem resetRecoversTheReceiver : Obligations.ResetRecoversTheReceiver := by
  intro s g r es hp hd hg hfit
  have hreset := step_of_reset_pending hp
  have hpush : step (resetBlock { s with pending := .request r :: es }) =
      .next (pushChunk Config.params g (resetBlock { s with pending := es })) :=
    stepRunsTheDecodedInstruction _ r es (.rxpush g) rfl hd
  have hdelivers := pushChunk_whole_frame (s := resetBlock { s with pending := es }) rfl rfl hfit hg
  rw [core_run_succ 1 hreset, core_run_succ 0 hpush, core_run_zero, hdelivers]
  rfl

/-- Settles O9: a reset's step by `step_of_reset_pending`, and the fields of CFG read from its reset value. -/
theorem resetSetsEveryRegisterAndEmitsNothing : Obligations.ResetSetsEveryRegisterAndEmitsNothing :=
  ⟨fun _ _ => step_of_reset_pending, rfl, rfl, rfl, by decide, by decide, by decide, by decide, cfgReserved_reset⟩

/-- Settles O10: with nothing issued, `takeEvent` takes its waiting branch. -/
theorem waitingBlockIsUnchanged : Obligations.WaitingBlockIsUnchanged := by
  intro s hp
  rw [step, takeEvent, hp]

/-- Settles O18: the reset value of CFG has no reserved bit set, the empty RXBUF fits and is rejected by VALIDATE, and nothing
has been emitted. -/
theorem resetStateMeetsTheInvariant : Obligations.ResetStateMeetsTheInvariant where
  reservedZero := cfgReserved_reset
  withinCapacity := fitsCapacity_zero Config.params
  accumulating := by simp [State.Accumulating, State.reset, validate_nil]
  legalOut := by simp [State.reset]

end Sys2Proof.Machine
end
